-- ==== Sys2Proof/Word.lean ====
section
/-! DEFINITION. The words, indices and fixed-size families of the LB84, with their plainest arithmetic.
A unit is 16 bits wide and a timestamp 32 (00_scope.md, "Conventions"). -/

namespace Sys2Proof

/-- A unit, a host word, a 16-bit counter. -/
abbrev Word := BitVec 16

/-- A timestamp or a 32-bit counter. -/
abbrev Word32 := BitVec 32

/-- A physical lane, 0 to 7. -/
abbrev Lane := Fin 8

/-- A logical index within a bond, 0 to 7. -/
abbrev Index := Fin 8

/-- A bond, BD0 to BD3. -/
abbrev BondId := Fin 4

/-- A word address of the register window, 0x000 to 0x1FF. -/
abbrev Addr := BitVec 9

/-- The physical lanes in number order. -/
def allLanes : List Lane := [0, 1, 2, 3, 4, 5, 6, 7]

/-- The logical indices in order. -/
def allIndices : List Index := [0, 1, 2, 3, 4, 5, 6, 7]

/-- The bonds in number order. -/
def allBonds : List BondId := [0, 1, 2, 3]

/-- Eight like things, one for each lane or each logical index. -/
structure Eight (α : Type) where
  c0 : α
  c1 : α
  c2 : α
  c3 : α
  c4 : α
  c5 : α
  c6 : α
  c7 : α
  deriving DecidableEq, Repr

namespace Eight
variable {α β : Type}

def get (v : Eight α) (i : Fin 8) : α :=
  match i.val with
  | 0 => v.c0
  | 1 => v.c1
  | 2 => v.c2
  | 3 => v.c3
  | 4 => v.c4
  | 5 => v.c5
  | 6 => v.c6
  | _ => v.c7

def set (v : Eight α) (i : Fin 8) (a : α) : Eight α :=
  match i.val with
  | 0 => { v with c0 := a }
  | 1 => { v with c1 := a }
  | 2 => { v with c2 := a }
  | 3 => { v with c3 := a }
  | 4 => { v with c4 := a }
  | 5 => { v with c5 := a }
  | 6 => { v with c6 := a }
  | _ => { v with c7 := a }

/-- All eight alike. -/
def rep (a : α) : Eight α := ⟨a, a, a, a, a, a, a, a⟩

/-- Each of the eight, by its number. -/
def ofFn (f : Fin 8 → α) : Eight α := ⟨f 0, f 1, f 2, f 3, f 4, f 5, f 6, f 7⟩

/-- Each of the eight changed by a function of its number. -/
def mapIdx (v : Eight α) (f : Fin 8 → α → β) : Eight β :=
  ofFn fun i => f i (v.get i)

end Eight

/-- Four like things, one for each bond. -/
structure Four (α : Type) where
  c0 : α
  c1 : α
  c2 : α
  c3 : α
  deriving DecidableEq, Repr

namespace Four
variable {α β : Type}

def get (v : Four α) (i : Fin 4) : α :=
  match i.val with
  | 0 => v.c0
  | 1 => v.c1
  | 2 => v.c2
  | _ => v.c3

def set (v : Four α) (i : Fin 4) (a : α) : Four α :=
  match i.val with
  | 0 => { v with c0 := a }
  | 1 => { v with c1 := a }
  | 2 => { v with c2 := a }
  | _ => { v with c3 := a }

/-- All four alike. -/
def rep (a : α) : Four α := ⟨a, a, a, a⟩

/-- Each of the four, by its number. -/
def ofFn (f : Fin 4 → α) : Four α := ⟨f 0, f 1, f 2, f 3⟩

/-- Each of the four changed by a function of its number. -/
def mapIdx (v : Four α) (f : Fin 4 → α → β) : Four β :=
  ofFn fun i => f i (v.get i)

end Four

/-- One more, stopping at the largest value ("counters that saturate stop at their largest value"). -/
def satInc {w : Nat} (c : BitVec w) : BitVec w :=
  if c = BitVec.allOnes w then c else c + 1

end Sys2Proof
end

