-- ==== Sys2Proof/Syntax.lean ====
section
/-! DEFINITION. The commands of the LB84, one constructor for each row of spec/opcode_table.json, and the types of
their operands. The table gives the rows no operands of its own; each command carries what its rule says it names. -/

namespace Sys2Proof

/-- What stands on a lane in one unit time, read as received (R1). The 65 536 data patterns, the three control
patterns and the complement of each are told apart, and all remaining patterns are `other`: these are all the
properties of the code the part uses (log 2). -/
inductive LinePattern where
  | data (u : Word)
  | idle
  | mark
  | head
  | notData (u : Word)
  | notIdle
  | notMark
  | notHead
  | other
  deriving DecidableEq, Repr

/-- A group of pending flags, with its pending word and its enable word (R163). -/
inductive FlagGroup where
  | global
  | lane (n : Lane)
  | bond (b : BondId)
  deriving DecidableEq, Repr

/-- A word of the register window: its block and its offset there (register map). -/
inductive Reg where
  | global (off : Fin 16)
  | lane (n : Lane) (off : Fin 16)
  | entry (n : Lane) (off : Fin 16)
  | bond (b : BondId) (off : Fin 48)
  | snap (off : Fin 32)
  | unmapped
  deriving DecidableEq, Repr

/-- The held groups (R187). -/
inductive HeldGroup where
  | timestamp
  | window
  | laneInvalid (n : Lane)
  | entry (n : Lane)
  | fault (b : BondId)
  | mend (b : BondId)
  | sweeps (b : BondId)
  | fillSweeps (b : BondId)
  | taintedRows (b : BondId)
  deriving DecidableEq, Repr

/-- How the blocks that take one symbol hand on what follows from it (logs 1 and 7): whether the lane's own notice goes
before what the buffer write side does with the symbol, and which of the messages to the owning bond stay on their way:
the lane's notice, the write side's and release unit's report, the roll-call unit's entry-status notice. -/
structure Handing where
  noticeFirst : Bool
  lateNotice : Bool
  lateReport : Bool
  lateEntry : Bool
  deriving DecidableEq, Repr

/-- The senders of a bond's notices and reports, each with an order of its own (R75). -/
inductive Sender where
  | receiver (n : Lane)
  | rollCall
  | writeSide (n : Lane)
  | readSide
  deriving DecidableEq, Repr

/-- The commands. An operand `late` says that the bond takes what the command sends it in a later step (log 1), and
`lateEntry` the same of a lost lane's entry-status notice (R81); where one is left out, the bond takes it in the same
step. -/
inductive Instr where
  /-- PIN_RESET (R185): RSTN low and high again; `csnLow` says whether CSN is low when RSTN rises. -/
  | pinReset (csnLow : Bool)
  /-- RESET_PART (R189): the value written to the global control word. -/
  | resetPart (v : Word)
  /-- REFCLK_EDGE (R34). -/
  | refclkEdge
  /-- REFERENCE_GAP (R33): the lanes whose notices are sent first, in order, and those whose lock-lost notices and whose
  entry-status notices stay on their way (logs 7 and 1). -/
  | referenceGap (order : List Lane) (late : List Lane := []) (lateEntry : List Lane := [])
  /-- LANE_ENABLE (R19): the value written to the lane's configuration word. -/
  | laneEnable (n : Lane) (v : Word)
  /-- LANE_DISABLE (R29): the value written to the lane's configuration word. -/
  | laneDisable (n : Lane) (v : Word) (late : Bool := false) (lateEntry : Bool := false)
  /-- ACQ_TIMEOUT (R20). -/
  | acqTimeout (n : Lane)
  /-- FREQUENCY_LOCK (R21). -/
  | frequencyLock (n : Lane)
  /-- FREQUENCY_LOSS (R28). -/
  | frequencyLoss (n : Lane) (late : Bool := false) (lateEntry : Bool := false)
  /-- LANE_SYMBOL (R22). -/
  | laneSymbol (n : Lane) (p : LinePattern) (h : Handing)
  /-- LANE_CLEAR_COUNTERS (R32). -/
  | laneClearCounters (n : Lane)
  /-- CALL_WORD_SLOT (R14). -/
  | callWordSlot
  /-- BOND_CONFIG_WRITE (R61): word offset 0 to 9 and the value. -/
  | bondConfigWrite (b : BondId) (off : Fin 10) (v : Word)
  /-- START (R67). -/
  | start (b : BondId)
  /-- STOP (R69). -/
  | stop (b : BondId)
  /-- RETRAIN (R70). -/
  | retrain (b : BondId)
  /-- CLEAR_FAULT (R71). -/
  | clearFault (b : BondId)
  /-- CLEAR_COUNTERS (R72). -/
  | clearCounters (b : BondId)
  /-- HOLD_TIMEOUT (R79). -/
  | holdTimeout (b : BondId)
  /-- CALL_TIMEOUT (R86). -/
  | callTimeout (b : BondId)
  /-- ALIGN_TIMEOUT (R87). -/
  | alignTimeout (b : BondId)
  /-- EPOCH_EVENT (R111): the bonds whose EPOCH_DRIFT report stays on its way. -/
  | epochEvent (late : List BondId := [])
  /-- RELEASE (R112). -/
  | release (b : BondId) (late : Bool := false)
  /-- READ_SIDE_SLOT (R114): `reportFirst` says whether an UNDERFLOW of a last read slot reaches the bond before that
  slot's sweep-completed notice (log 7). -/
  | readSideSlot (b : BondId) (reportFirst : Bool) (late : Bool := false)
  /-- SEAT_COMPLETE (R136). -/
  | seatComplete (b : BondId) (late : Bool := false)
  /-- MEND_TIMEOUT (R126). -/
  | mendTimeout (b : BondId)
  /-- SNAPSHOT_REQUEST (R173): lane, trigger code, count code. -/
  | snapshotRequest (n : Lane) (trigger : BitVec 2) (count : BitVec 4)
  /-- SNAPSHOT_CANCEL (R178). -/
  | snapshotCancel
  /-- SNAPSHOT_TIMEOUT (R177). -/
  | snapshotTimeout
  /-- PENDING_CLEAR (R165): the group and the value written to its pending word. -/
  | pendingClear (g : FlagGroup) (v : Word)
  /-- INSPECTION_SELECT (R191): the value written to the inspection select word. -/
  | inspectionSelect (v : Word)
  /-- REGISTER_WRITE (R182): the address and the value. -/
  | registerWrite (a : Addr) (v : Word)
  /-- TRANSACTION_HEADER (R180): the 16 header bits. -/
  | transactionHeader (h : Word)
  /-- HOLDING_COPY_FILL (R186): the address whose read slot begins. -/
  | holdingCopyFill (a : Addr)
  /-- READ_UNMAPPED (R183): the address whose read slot begins. -/
  | readUnmapped (a : Addr)
  /-- PARTIAL_WORD (R184): the bits of a word received when CSN rises. -/
  | partialWord (bits : Fin 16)
  /-- TIMESTAMP_COUNTER_ADVANCE (R37): a unit time begins. `arrivals` are the notices and reports that arrive before it,
  each the earliest on its way to that bond from that sender, and the rest stays on its way; without the operand all that
  is on its way arrives (log 1). -/
  | timestampCounterAdvance (arrivals : Option (List (BondId × Sender)) := none)
  /-- TRANSACTION_END (R184). -/
  | transactionEnd
  deriving DecidableEq, Repr

end Sys2Proof
end

