-- ==== Sys2Proof/Decode.lean ====
section
/-! DEFINITION. The command a word spells. The table gives bits to none of its rows (98_reader.md counts no row with
fixed bits or fields), so no word spells one. -/

namespace Sys2Proof

/-- The command that the bits `w` spell by the table: none, for no row gives bits. -/
def decodeTableWord (_nbits _w : Nat) : Option Instr := none

end Sys2Proof
end

