-- ==== Sys2Proof/Config.lean ====
section
/-! DEFINITION. The numbers the LB84 fixes, each with the rule that gives it.
No rule leaves a result value open, so there is no free value here: what the spec leaves open is the order of two
events taken together, and the order of the commands (or an operand of one) carries that (logs 1 and 7). -/

namespace Sys2Proof.Config

/-- Valid symbols in a row that give symbol lock (R23). -/
def lockRunLength : Nat := 32

/-- INVERTED symbols in a row that toggle the polarity (R24). -/
def invertedRunLength : Nat := 16

/-- Valid symbols in a row that take a strike away (R25). -/
def reliefRunLength : Nat := 64

/-- Strikes that end a lock (R27). -/
def strikeLimit : Nat := 4

/-- REFCLK edges that declare PRESENT (R34). -/
def presentEdges : Nat := 64

/-- Microseconds without an edge that make a reference gap (R33). -/
def gapTicks : Nat := 4

/-- The acquisition timeout after reset (R17). -/
def resetAcqTimeout : BitVec 8 := 100

/-- Timebase ticks in one step of the acquisition timeout (R17). -/
def acqTimeoutStep : Nat := 10

/-- Timebase ticks in a millisecond (R76, R126, R177). -/
def ticksPerMs : Nat := 1000

/-- Identical valid captures that confirm an entry (R39). -/
def confirmCount : Nat := 3

/-- Entries an elastic buffer holds at most (R98). -/
def bufferDepth : Nat := 1024

/-- Largest skew limit in range (R57). -/
def maxSkewLimit : Nat := 768

/-- Largest retrain limit in range (R57). -/
def maxRetrainLimit : Nat := 7

/-- Unit times between the latest arrival (or the epoch) plus the release delay and the release (R110, R111). -/
def releaseMargin : Nat := 4

/-- Largest occupancy at a read that a seat may give (R133). -/
def maxSeatOccupancy : Int := 1023

/-- Whole sweeps of RUNNING that forgive the retrains (R90). -/
def settleLimit : Nat := 4096

/-- Part code of the identity word (register map, word 0x000). -/
def partCode : Nat := 0x84

/-- Revision of the identity word (register map, word 0x000). -/
def revision : Nat := 1

end Sys2Proof.Config
end

