-- ==== Sys2Proof/Machine/State.lean ====
section
/-! DEFINITION. The state of the LB84, all of it, and its value after reset.
Every field names the rule that gives it; INVENTORY.md lists them with their reset values. -/

namespace Sys2Proof.Machine

/-! ## Lane receivers and the reference monitor -/

/-- A timer on the 1 µs timebase: stopped, held at a count, or running toward the limit it started with (R20, R76). -/
inductive Timer where
  | stopped
  | held (ticks : Nat)
  | running (ticks limit : Nat)
  deriving DecidableEq, Repr

inductive LaneMode where
  | off | acquiring | seeking | locked
  deriving DecidableEq, Repr

inductive Polarity where
  | normal | inverted
  deriving DecidableEq, Repr

inductive LossCause where
  | strikes | frequency | reference | disabled
  deriving DecidableEq, Repr

/-- The six classes of symbol (R2). -/
inductive SymbolClass where
  | data (u : Word)
  | idle
  | mark
  | head
  | inverted
  | invalid
  deriving DecidableEq, Repr

/-- A lane receiver: its configuration (R17) and runtime fields (R18). -/
structure LaneRx where
  enable : Bool
  cfgPolarity : Polarity
  autoPolarity : Bool
  acqTimeout : BitVec 8
  mode : LaneMode
  polarity : Polarity
  lockRun : Nat
  invRun : Nat
  strikes : Nat
  relief : Nat
  lastLoss : Option LossCause
  invalidSymbols : Word32
  lockLosses : Word
  acqFailures : Word
  acqTimer : Timer
  deriving DecidableEq, Repr

/-- The reference monitor (R33): PRESENT or ABSENT, the edge count, and the ticks since the last edge. -/
structure RefMonitor where
  present : Bool
  edges : Nat
  gap : Nat
  deriving DecidableEq, Repr

/-! ## The roll-call unit -/

/-- A stream's shape as the codes of word B (R6): the values are code + 1, 32 × (code + 1) and code + 1. -/
structure Shape where
  laneCode : BitVec 3
  sweepCode : BitVec 5
  chanCode : BitVec 4
  deriving DecidableEq, Repr

/-- The common fields of a record, and so an active profile (R6, R83). -/
structure Profile where
  sourceId : BitVec 9
  bondTag : BitVec 4
  shape : Shape
  spareCapable : Bool
  deriving DecidableEq, Repr

/-- A stored announcement record (R38); label_length is the length of the label. -/
structure Record where
  common : Profile
  logicalIndex : BitVec 3
  label : List Word
  deriving DecidableEq, Repr

inductive EntryStatus where
  | empty | seen | confirmed | stale
  deriving DecidableEq, Repr

/-- An announcement entry (R38). -/
structure Entry where
  status : EntryStatus
  repeats : Nat
  record : Record
  captured : Word32
  checkFailures : Word
  malformed : Word
  deriving DecidableEq, Repr

/-- The words an open record has received, in order, and their running sum (R41). -/
structure OpenRecord where
  words : List Word
  sum : Word
  deriving DecidableEq, Repr

/-- The roll-call unit of one lane: listening (R40), assembler (R41) and entry (R38). -/
structure RollCall where
  listening : Bool
  prevMark : Bool
  openRec : Option OpenRecord
  entry : Entry
  deriving DecidableEq, Repr

/-! ## Elastic buffers -/

/-- An entry of an elastic buffer (R98). -/
inductive BufEntry where
  | unit (v : Word) (taint : Bool)
  | mark
  deriving DecidableEq, Repr

inductive WriteSide where
  | closed | watching | opened
  deriving DecidableEq, Repr

/-- A lane's elastic buffer and write side (R98 to R102); `latestMark` is the latest MARK taken since the write side
last opened, the opening mark included (R132). -/
structure Buffer where
  entries : List BufEntry
  side : WriteSide
  sweepCount : Nat
  markMemory : Option Word32
  latestMark : Option Word32
  deriving DecidableEq, Repr

/-! ## Bonds -/

inductive MatchMode where
  | exact | learn
  deriving DecidableEq, Repr

inductive ReleaseMode where
  | free | timed
  deriving DecidableEq, Repr

inductive EpochPolicy where
  | report | retrain
  deriving DecidableEq, Repr

inductive TaintPolicy where
  | pass | fillRest
  deriving DecidableEq, Repr

inductive FillMode where
  | value | hold
  deriving DecidableEq, Repr

/-- A bond's configuration (R57), with fields as stored (R58). -/
structure BondConfig where
  members : BitVec 8
  spare : Option Lane
  matchMode : MatchMode
  expSource : BitVec 9
  expTag : BitVec 4
  expShape : Shape
  careSource : Bool
  careTag : Bool
  releaseMode : ReleaseMode
  releaseDelay : BitVec 12
  skewLimit : BitVec 10
  epochTolerance : BitVec 4
  epochPolicy : EpochPolicy
  mending : Bool
  taintPolicy : TaintPolicy
  fillMode : FillMode
  fillValue : Word
  holdTimeout : BitVec 8
  callTimeout : BitVec 8
  alignTimeout : BitVec 8
  mendTimeout : BitVec 8
  retrainLimit : BitVec 4
  deriving DecidableEq, Repr

inductive BondState where
  | disabled | holding | calling | aligning | running | mending | halted
  deriving DecidableEq, Repr

/-- Kinds of call word (R12). -/
inductive CallKind where
  | quiet | hold | call | go | move | rejoin | resume
  deriving DecidableEq, Repr

/-- A call word (R12). -/
structure CallWord where
  kind : CallKind
  tag : BitVec 4
  index : Index
  deriving DecidableEq, Repr

inductive Command where
  | start | stop | retrain | clearFault | clearCounters
  deriving DecidableEq, Repr

inductive ResultKind where
  | done | refusedState | refusedConfig
  deriving DecidableEq, Repr

/-- Reasons of a refused START, in the order of R68. -/
inductive StartReason where
  | noMembers | laneTaken | spareIsMember | memberOff | countMismatch | profileUnusable | timingRange
  deriving DecidableEq, Repr

/-- Fields of TIMING_RANGE, in the order of R68. -/
inductive RangeField where
  | skewLimit | callTimeout | alignTimeout | mendTimeout | retrainLimit
  deriving DecidableEq, Repr

/-- A bond's last command result (R66). -/
structure CmdResult where
  command : Option Command
  result : Option ResultKind
  stateAt : Option BondState
  reason : Option StartReason
  lane : Option Lane
  other : Option BondId
  field : Option RangeField
  seq : BitVec 4
  deriving DecidableEq, Repr

/-- The twenty fault causes, in the order of their codes (R160). -/
inductive FaultCause where
  | holdTimeout | callTimeout | announceMismatch | laneCount | duplicateIndex | profileMismatch | profileUnusable
  | alignTimeout | skew | overflow | underflow | laneLost | markSlip | laneDisabled | refLost | secondLane
  | mendMismatch | mendSeat | mendTimeout | epochDrift
  deriving DecidableEq, Repr

/-- Values of the detail kind FIELD, in the order of R158. -/
inductive FieldName where
  | sourceId | bondTag | laneCount | channelCount | sweepLength | spareCapable | logicalIndex
  deriving DecidableEq, Repr

/-- Values of the detail kind SUB_CAUSE, in the order of R158. -/
inductive SubCause where
  | laneLost | laneDisabled | markSlip | underflow
  deriving DecidableEq, Repr

/-- The detail of a fault record (R158). -/
inductive Detail where
  | skew (units : Nat)
  | seatOffset (d : Int)
  | field (f : FieldName)
  | subCause (c : SubCause)
  deriving DecidableEq, Repr

/-- A filled fault record (R157). -/
structure FaultRec where
  cause : FaultCause
  stateAt : BondState
  lane : Option Lane
  index : Option Index
  detail : Option Detail
  time : Word32
  deriving DecidableEq, Repr

/-- Trigger causes of a mend, in the order of R122. -/
inductive TriggerCause where
  | strikes | frequency | markSlip | underflow
  deriving DecidableEq, Repr

inductive MendMethod where
  | move | rejoin
  deriving DecidableEq, Repr

inductive MendPhase where
  | announce | seat
  deriving DecidableEq, Repr

inductive MendOutcome where
  | inProgress | joined | failed
  deriving DecidableEq, Repr

/-- A mend record that is not empty (R122). -/
structure MendRec where
  trigger : Lane
  k : Index
  cause : TriggerCause
  method : MendMethod
  joining : Lane
  reference : Option Lane
  phase : MendPhase
  outcome : MendOutcome
  offset : Option Int
  deriving DecidableEq, Repr

inductive ReleaseState where
  | idle | markWait | epochWait | countdown | released
  deriving DecidableEq, Repr

/-- A release unit (R100, R107). `earliest` is the first arrival in the order the reports were taken (R109),
`epochInstant` the epoch that fixed the release (R119), `postponed` a release instant reached behind a COMPLETING
sweep (R112). -/
structure ReleaseUnit where
  state : ReleaseState
  go : Bool
  arrivals : Eight (Option Word32)
  earliest : Option Word32
  skew : Option Word32
  instant : Option Word32
  epochInstant : Option Word32
  postponed : Bool
  releasePhase : Option Nat
  lastPhase : Option Nat
  deriving DecidableEq, Repr

inductive ReadState where
  | idle | reading | completing
  deriving DecidableEq, Repr

/-- A read side (R113 to R117). `slotTaken` says that the slot of the present unit time has been read (log 5). -/
structure ReadSide where
  state : ReadState
  phase : Nat
  withdrawn : BitVec 8
  whole : Bool
  slotTaken : Bool
  deriving DecidableEq, Repr

inductive Standing where
  | clean | filling | spoiled
  deriving DecidableEq, Repr

/-- A row on a stream output port (R142). -/
structure Row where
  units : List Word
  valid : Bool
  first : Bool
  tainted : Bool
  startChannel : BitVec 4
  deriving DecidableEq, Repr

/-- A reassembly unit (R141); `presented` is the row strobed in the present unit time (R142). -/
structure Reassembly where
  runShape : Option Shape
  standing : Standing
  held : Option (List Word)
  sweeps : Word32
  fillSweeps : Word32
  taintedRows : Word32
  validRows : Bool
  presented : Option Row
  deriving DecidableEq, Repr

/-- A notice or report that a bond controller takes (R75), with what it carries: the lane receivers' (R30), the roll-call
unit's entry-status notices with the new status (R53), the write sides' (R104, R105), and those of the release unit and
read side (R109, R112, R115, R117, R120). -/
inductive Notice where
  | lockGained (n : Lane)
  | lockLost (n : Lane) (cause : LossCause)
  | entryStatus (n : Lane) (status : EntryStatus)
  | markSlip (n : Lane)
  | overflow (n : Lane)
  | skew (lane : Option Lane) (units : Nat)
  | released
  | sweepCompleted (whole : Bool)
  | underflow (n : Lane)
  | epochDrift
  deriving DecidableEq, Repr

/-- A bond: configuration (R57), controller (R74), call line sender (R15), mend (R122), release unit, read side and
reassembly. `seat` is the join slot of the seat in progress (R134), `inFlight` the notices and reports that have been
sent to the bond and that it has not yet taken, in the order sent (R75, R112; log 1). -/
structure Bond where
  cfg : BondConfig
  state : BondState
  profile : Option Profile
  map : Option (Eight (Option Lane))
  offsets : Eight (Option Int)
  retrain : Nat
  settle : Nat
  holdTimer : Timer
  callTimer : Timer
  alignTimer : Timer
  mendTimer : Timer
  lastSent : CallWord
  callSeq : BitVec 4
  lineKind : CallKind
  lineIndex : Index
  result : CmdResult
  fault : Option FaultRec
  faultCount : BitVec 8
  mend : Option MendRec
  seat : Option Word32
  mends : Word
  epochDrifts : Word
  rel : ReleaseUnit
  rd : ReadSide
  ra : Reassembly
  inFlight : List Notice
  deriving DecidableEq, Repr

/-! ## Interrupt controller, snapshot unit, host port -/

inductive IrqLevel where
  | activeLow | activeHigh
  deriving DecidableEq, Repr

inductive IrqDrive where
  | pushPull | openDrain
  deriving DecidableEq, Repr

/-- Pending flags and enables by group (R163, R166), in the bit positions of the register map, and the IRQ fields
(R169). -/
structure Irq where
  globalPending : BitVec 5
  globalEnable : BitVec 5
  lanePending : Eight (BitVec 7)
  laneEnable : Eight (BitVec 7)
  bondPending : Four (BitVec 6)
  bondEnable : Four (BitVec 6)
  level : IrqLevel
  drive : IrqDrive
  deriving DecidableEq, Repr

inductive SnapState where
  | idle | armed | filling | done | aborted
  deriving DecidableEq, Repr

inductive SnapTrigger where
  | next | atMark | atHead
  deriving DecidableEq, Repr

inductive AbortCause where
  | laneDown | timeout | cancelled
  deriving DecidableEq, Repr

inductive RequestResult where
  | accepted | busy | laneOff
  deriving DecidableEq, Repr

/-- The snapshot unit (R172). An entry is the symbol's class, with the unit of DATA (R176). -/
structure Snapshot where
  state : SnapState
  lane : Option Lane
  trigger : Option SnapTrigger
  count : Option Nat
  entries : List SymbolClass
  instant : Option Word32
  abort : Option AbortCause
  lastResult : Option RequestResult
  seq : BitVec 4
  timer : Timer
  deriving DecidableEq, Repr

/-- The host transaction: none (CSN high), one whose header was judged good with the address of its next data word
(R181), or one that has ended and waits for CSN to rise (R180, R185, R189). -/
inductive Txn where
  | idle
  | active (read : Bool) (inc : Bool) (addr : Addr)
  | ended
  deriving DecidableEq, Repr

/-- What the holding copy holds (R186). -/
structure HoldingCopy where
  group : HeldGroup
  words : List Word
  deriving DecidableEq, Repr

/-- The host port: transaction, holding copy, the value sampled for the slot in progress (R183), inspection select
(R191) and refused address (R62). -/
structure HostPort where
  txn : Txn
  copy : Option HoldingCopy
  sample : Word
  selBond : BondId
  selItem : BitVec 3
  refused : Option Addr
  deriving DecidableEq, Repr

/-- The whole part, with the queue of commands that wait. `slotDue` says that the next timebase tick begins a word slot
(R13), `lineStarted` that a slot has begun since reset (R14, R192). -/
structure State where
  lanes : Eight LaneRx
  rolls : Eight RollCall
  bufs : Eight Buffer
  bonds : Four Bond
  refmon : RefMonitor
  timestamp : Word32
  slotDue : Bool
  lineStarted : Bool
  irq : Irq
  snap : Snapshot
  port : HostPort
  pending : List Instr
  deriving DecidableEq, Repr

/-- Reasons for a step to stop with a fault. There is none: the spec gives every command an effect in every state
(R182 to R184 for errors of the host port, R95 for the faults of a bond, which are state of the bond). -/
inductive Fault where
  deriving DecidableEq, Repr

/-- Reasons for a step to be refused. -/
inductive Refusal where
  /-- Raised by an arm of `exec` for a command that has no meaning yet; safe. No arm raises it. -/
  | notModelled (mnemonic : String)
  deriving DecidableEq, Repr

/-! ## After reset -/

/-- R17, R18. -/
def LaneRx.reset : LaneRx where
  enable := false
  cfgPolarity := .normal
  autoPolarity := false
  acqTimeout := Config.resetAcqTimeout
  mode := .off
  polarity := .normal
  lockRun := 0
  invRun := 0
  strikes := 0
  relief := 0
  lastLoss := none
  invalidSymbols := 0
  lockLosses := 0
  acqFailures := 0
  acqTimer := .stopped

/-- The shape of an all-zero word B (R8, R38). -/
def Shape.zero : Shape := ⟨0, 0, 0⟩

/-- The record of all-zero words (R8, R38). -/
def Record.zero : Record := ⟨⟨0, 0, Shape.zero, false⟩, 0, []⟩

/-- R38. -/
def Entry.reset : Entry := ⟨.empty, 0, Record.zero, 0, 0, 0⟩

/-- R38, R40, R41. -/
def RollCall.reset : RollCall := ⟨false, false, none, Entry.reset⟩

/-- R98, R99, R101, R102. -/
def Buffer.reset : Buffer := ⟨[], .closed, 0, none, none⟩

/-- R57. -/
def BondConfig.reset : BondConfig where
  members := 0
  spare := none
  matchMode := .exact
  expSource := 0
  expTag := 0
  expShape := Shape.zero
  careSource := true
  careTag := true
  releaseMode := .free
  releaseDelay := 0
  skewLimit := 256
  epochTolerance := 2
  epochPolicy := .report
  mending := false
  taintPolicy := .pass
  fillMode := .value
  fillValue := 0
  holdTimeout := 0
  callTimeout := 10
  alignTimeout := 10
  mendTimeout := 5
  retrainLimit := 3

/-- R66. -/
def CmdResult.reset : CmdResult := ⟨none, none, none, none, none, none, none, 0⟩

/-- R100, R107. -/
def ReleaseUnit.reset : ReleaseUnit := ⟨.idle, false, Eight.rep none, none, none, none, none, false, none, none⟩

/-- R113. -/
def ReadSide.reset : ReadSide := ⟨.idle, 0, 0, false, false⟩

/-- R141, R142. -/
def Reassembly.reset : Reassembly := ⟨none, .spoiled, none, 0, 0, 0, false, none⟩

/-- R57, R74, R15, R127, R122. -/
def Bond.reset : Bond where
  cfg := BondConfig.reset
  state := .disabled
  profile := none
  map := none
  offsets := Eight.rep none
  retrain := 0
  settle := 0
  holdTimer := .stopped
  callTimer := .stopped
  alignTimer := .stopped
  mendTimer := .stopped
  lastSent := ⟨.quiet, 0, 0⟩
  callSeq := 0
  lineKind := .quiet
  lineIndex := 0
  result := CmdResult.reset
  fault := none
  faultCount := 0
  mend := none
  seat := none
  mends := 0
  epochDrifts := 0
  rel := ReleaseUnit.reset
  rd := ReadSide.reset
  ra := Reassembly.reset
  inFlight := []

/-- R163, R166, R169. -/
def Irq.reset : Irq := ⟨0, 0, Eight.rep 0, Eight.rep 0, Four.rep 0, Four.rep 0, .activeLow, .pushPull⟩

/-- R172. -/
def Snapshot.reset : Snapshot := ⟨.idle, none, none, none, [], none, none, none, 0, .stopped⟩

/-- R185, R186, R191, R62. -/
def HostPort.reset : HostPort := ⟨.idle, none, 0, 0, 0, none⟩

/-- The part right after pin reset, with an empty queue. -/
def State.reset : State where
  lanes := Eight.rep LaneRx.reset
  rolls := Eight.rep RollCall.reset
  bufs := Eight.rep Buffer.reset
  bonds := Four.rep Bond.reset
  refmon := ⟨false, 0, 0⟩
  timestamp := 0
  slotDue := true
  lineStarted := false
  irq := Irq.reset
  snap := Snapshot.reset
  port := HostPort.reset
  pending := []

end Sys2Proof.Machine
end

