-- ==== Sys2Proof/Machine/Operands.lean ====
section
/-! DEFINITION. Reading operands: fields of a 16-bit word, symbols under a polarity, announcement words, shapes, and
the addresses of the register window. -/

namespace Sys2Proof.Machine

/-! ## Bit fields -/

/-- The `len` bits of a word from position `lo` up, as a number of `len` bits. -/
def wordField (v : Word) (lo len : Nat) : BitVec len := v.extractLsb' lo len

/-- A bit of a word as a flag. -/
def wordBit (v : Word) (i : Nat) : Bool := v.getLsbD i

/-- A word put together from values and the positions of their lowest bits. -/
def packWord (fields : List (Nat × Nat)) : Word :=
  fields.foldl (fun w f => w ||| BitVec.ofNat 16 f.1 <<< f.2) 0

/-- A flag as a number. -/
def bitNat (b : Bool) : Nat := if b then 1 else 0

/-! ## Symbols -/

/-- The bitwise complement of what stands on the line (R1). -/
def complement : LinePattern → LinePattern
  | .data u => .notData u
  | .idle => .notIdle
  | .mark => .notMark
  | .head => .notHead
  | .notData u => .data u
  | .notIdle => .idle
  | .notMark => .mark
  | .notHead => .head
  | .other => .other

/-- The class of a pattern after the polarity was applied (R2). -/
def decodePattern : LinePattern → SymbolClass
  | .data u => .data u
  | .idle => .idle
  | .mark => .mark
  | .head => .head
  | .notIdle => .inverted
  | .notData _ | .notMark | .notHead | .other => .invalid

/-- The class of a received symbol under the effective polarity (R1, R2). -/
def classify (pol : Polarity) (p : LinePattern) : SymbolClass :=
  match pol with
  | .normal => decodePattern p
  | .inverted => decodePattern (complement p)

/-- Whether a class counts as a valid symbol (R2). -/
def SymbolClass.isValid : SymbolClass → Bool
  | .data _ | .idle | .mark | .head => true
  | .inverted | .invalid => false

/-- Whether a lane in this mode classifies symbols (R2). -/
def LaneMode.classifies : LaneMode → Bool
  | .seeking | .locked => true
  | .off | .acquiring => false

/-! ## Shapes and announcement words -/

/-- L, 1 to 8 (R6). -/
def Shape.lanes (sh : Shape) : Nat := sh.laneCode.toNat + 1

/-- S, 32 to 1024 in steps of 32 (R6). -/
def Shape.sweep (sh : Shape) : Nat := 32 * (sh.sweepCode.toNat + 1)

/-- C, 1 to 16 (R6). -/
def Shape.channels (sh : Shape) : Nat := sh.chanCode.toNat + 1

/-- A profile is usable when C divides L × S (R11). -/
def Shape.usable (sh : Shape) : Bool := (sh.lanes * sh.sweep) % sh.channels == 0

/-- label_length of word B (R6). -/
def labelLength (wordB : Word) : Nat := (wordField wordB 8 3).toNat

/-- How many words a record has whose second word is this word B (R5, R41). -/
def recordLength (wordB : Word) : Nat := 3 + labelLength wordB

/-- The shape fields of word B. -/
def shapeOfWord (v : Word) : Shape := ⟨wordField v 4 3, wordField v 11 5, wordField v 0 4⟩

/-- The record of words A and B and the label words (R6, R7). -/
def recordOfWords (wordA wordB : Word) (label : List Word) : Record where
  common := ⟨wordField wordA 7 9, wordField wordA 3 4, shapeOfWord wordB, wordBit wordB 7⟩
  logicalIndex := wordField wordA 0 3
  label := label

/-- Word A of source_id, bond_tag and logical_index. -/
def identityWord (source : BitVec 9) (tag : BitVec 4) (index : Nat) : Word :=
  packWord [(source.toNat, 7), (tag.toNat, 3), (index, 0)]

/-- Word B of a shape, with spare_capable and label_length. -/
def shapeWord (sh : Shape) (labelLen : Nat) (spare : Bool) : Word :=
  packWord [(sh.sweepCode.toNat, 11), (labelLen, 8), (bitNat spare, 7), (sh.laneCode.toNat, 4), (sh.chanCode.toNat, 0)]

/-- A call word's kind code (call word layout). -/
def CallKind.code : CallKind → Nat
  | .quiet => 0 | .hold => 1 | .call => 2 | .go => 3 | .move => 4 | .rejoin => 5 | .resume => 6

/-- The 16 bits of a call word on the line. -/
def CallWord.bits (w : CallWord) : Word :=
  packWord [(w.kind.code, 13), (w.tag.toNat, 9), (w.index.val, 6)]

/-! ## Addresses of the register window -/

/-- The word at an address (register map). -/
def regAt (a : Addr) : Reg :=
  let x := a.toNat
  if x < 0x010 then .global (Fin.ofNat 16 x)
  else if x < 0x090 then .lane (Fin.ofNat 8 ((x - 0x010) / 16)) (Fin.ofNat 16 (x - 0x010))
  else if x < 0x110 then .entry (Fin.ofNat 8 ((x - 0x090) / 16)) (Fin.ofNat 16 (x - 0x090))
  else if x < 0x1D0 then .bond (Fin.ofNat 4 ((x - 0x110) / 48)) (Fin.ofNat 48 (x - 0x110))
  else if x < 0x1F0 then .snap (Fin.ofNat 32 (x - 0x1D0))
  else .unmapped

def globalAddr (off : Nat) : Addr := BitVec.ofNat 9 off

def laneAddr (n : Lane) (off : Nat) : Addr := BitVec.ofNat 9 (0x010 + 16 * n.val + off)

def bondAddr (b : BondId) (off : Nat) : Addr := BitVec.ofNat 9 (0x110 + 48 * b.val + off)

def snapAddr (off : Nat) : Addr := BitVec.ofNat 9 (0x1D0 + off)

/-- The address of a group's pending word. -/
def pendingAddr : FlagGroup → Addr
  | .global => globalAddr 7
  | .lane n => laneAddr n 8
  | .bond b => bondAddr b 38

/-- The held group a word belongs to and its place there (R187). -/
def heldAt : Reg → Option (HeldGroup × Nat)
  | .global off =>
    if off.val = 3 ∨ off.val = 4 then some (.timestamp, off.val - 3)
    else if 0x00A ≤ off.val then some (.window, off.val - 0x00A)
    else none
  | .lane n off => if off.val = 4 ∨ off.val = 5 then some (.laneInvalid n, off.val - 4) else none
  | .entry n off => some (.entry n, off.val)
  | .bond b off =>
    if 30 ≤ off.val ∧ off.val < 35 then some (.fault b, off.val - 30)
    else if 35 ≤ off.val ∧ off.val < 38 then some (.mend b, off.val - 35)
    else if off.val = 40 ∨ off.val = 41 then some (.sweeps b, off.val - 40)
    else if off.val = 42 ∨ off.val = 43 then some (.fillSweeps b, off.val - 42)
    else if off.val = 44 ∨ off.val = 45 then some (.taintedRows b, off.val - 44)
    else none
  | .snap _ | .unmapped => none

end Sys2Proof.Machine

namespace Sys2Proof

/-- Whether a word of the window is mapped: not 0x1F0 up, not offsets 11 to 15 of a lane, not offsets 25 to 31 of the
snapshot block. -/
def Reg.isMapped : Reg → Bool
  | .global _ | .entry _ _ | .bond _ _ => true
  | .lane _ off => off.val < 11
  | .snap off => off.val < 25
  | .unmapped => false

/-- Whether REGISTER_WRITE is the row of a write at an address: no other row of the table writes there. -/
def Reg.hasNoRowOfItsOwn : Reg → Bool
  | .global off => !(off.val == 7 || off.val == 9)
  | .lane _ off => !(off.val == 1 || off.val == 8)
  | .entry _ _ => true
  | .bond _ off => !(off.val < 11 || off.val == 38)
  | .snap off => off.val != 0
  | .unmapped => true

/-- The words of a held group, in order. -/
def HeldGroup.regs : HeldGroup → List Reg
  | .timestamp => [.global 3, .global 4]
  | .window => [.global 10, .global 11, .global 12, .global 13, .global 14, .global 15]
  | .laneInvalid n => [.lane n 4, .lane n 5]
  | .entry n =>
    [.entry n 0, .entry n 1, .entry n 2, .entry n 3, .entry n 4, .entry n 5, .entry n 6, .entry n 7,
     .entry n 8, .entry n 9, .entry n 10, .entry n 11, .entry n 12, .entry n 13, .entry n 14, .entry n 15]
  | .fault b => [.bond b 30, .bond b 31, .bond b 32, .bond b 33, .bond b 34]
  | .mend b => [.bond b 35, .bond b 36, .bond b 37]
  | .sweeps b => [.bond b 40, .bond b 41]
  | .fillSweeps b => [.bond b 42, .bond b 43]
  | .taintedRows b => [.bond b 44, .bond b 45]

end Sys2Proof
end

