-- ==== Sys2Proof/Machine/Flags.lean ====
section
/-! DEFINITION. Pending flags, enables, the summary word and IRQ (R163 to R169). -/

namespace Sys2Proof.Machine

inductive GlobalFlag where
  | refLost | refRestored | snapshotEnd | writeRefused | portError
  deriving DecidableEq, Repr

inductive LaneFlag where
  | lockGained | lockLost | acqFailed | polarityFlipped | announceConfirmed | announceChanged | announceBad
  deriving DecidableEq, Repr

inductive BondFlag where
  | runningEntered | fault | halted | mendStarted | mendDone | epochDrift
  deriving DecidableEq, Repr

/-- Bit positions in the global pending word (register map, 0x007). -/
def GlobalFlag.pos : GlobalFlag → Nat
  | .refLost => 0 | .refRestored => 1 | .snapshotEnd => 2 | .writeRefused => 3 | .portError => 4

/-- Bit positions in a lane's pending word (lane block, offset 8). -/
def LaneFlag.pos : LaneFlag → Nat
  | .lockGained => 0 | .lockLost => 1 | .acqFailed => 2 | .polarityFlipped => 3
  | .announceConfirmed => 4 | .announceChanged => 5 | .announceBad => 6

/-- Bit positions in a bond's pending word (bond block, offset 38). -/
def BondFlag.pos : BondFlag → Nat
  | .runningEntered => 0 | .fault => 1 | .halted => 2 | .mendStarted => 3 | .mendDone => 4 | .epochDrift => 5

/-- Flags with one more set (R163). -/
def setFlag {w : Nat} (flags : BitVec w) (pos : Nat) : BitVec w := flags ||| BitVec.twoPow w pos

/-- Flags less those written 1 (R165). -/
def clearFlags {w : Nat} (flags : BitVec w) (v : Word) : BitVec w := flags &&& ~~~(v.setWidth w)

namespace State

def raiseGlobal (s : State) (f : GlobalFlag) : State :=
  { s with irq := { s.irq with globalPending := setFlag s.irq.globalPending f.pos } }

def raiseLane (s : State) (n : Lane) (f : LaneFlag) : State :=
  { s with irq := { s.irq with lanePending := s.irq.lanePending.set n (setFlag (s.irq.lanePending.get n) f.pos) } }

def raiseBond (s : State) (b : BondId) (f : BondFlag) : State :=
  { s with irq := { s.irq with bondPending := s.irq.bondPending.set b (setFlag (s.irq.bondPending.get b) f.pos) } }

/-- Whether a global flag is pending. -/
def globalFlag (s : State) (f : GlobalFlag) : Bool := s.irq.globalPending.getLsbD f.pos

/-- Whether a lane's flag is pending. -/
def laneFlag (s : State) (n : Lane) (f : LaneFlag) : Bool := (s.irq.lanePending.get n).getLsbD f.pos

/-- Whether a bond's flag is pending. -/
def bondFlag (s : State) (b : BondId) (f : BondFlag) : Bool := (s.irq.bondPending.get b).getLsbD f.pos

/-- A write to a group's pending word clears the flags written 1 (R165). -/
def clearPending (s : State) (g : FlagGroup) (v : Word) : State :=
  match g with
  | .global => { s with irq := { s.irq with globalPending := clearFlags s.irq.globalPending v } }
  | .lane n =>
    { s with irq := { s.irq with lanePending := s.irq.lanePending.set n (clearFlags (s.irq.lanePending.get n) v) } }
  | .bond b =>
    { s with irq := { s.irq with bondPending := s.irq.bondPending.set b (clearFlags (s.irq.bondPending.get b) v) } }

/-- A write to a group's enable word stores the enables (R166). -/
def writeEnable (s : State) (g : FlagGroup) (v : Word) : State :=
  match g with
  | .global => { s with irq := { s.irq with globalEnable := v.setWidth 5 } }
  | .lane n => { s with irq := { s.irq with laneEnable := s.irq.laneEnable.set n (v.setWidth 7) } }
  | .bond b => { s with irq := { s.irq with bondEnable := s.irq.bondEnable.set b (v.setWidth 6) } }

end State

/-- A group's indication: some flag of it is both pending and enabled (R167). -/
def Irq.indication (q : Irq) : FlagGroup → Bool
  | .global => q.globalPending &&& q.globalEnable != 0
  | .lane n => q.lanePending.get n &&& q.laneEnable.get n != 0
  | .bond b => q.bondPending.get b &&& q.bondEnable.get b != 0

/-- The thirteen groups in the order of the summary word (register map, 0x006). -/
def allGroups : List FlagGroup :=
  .global :: (allLanes.map FlagGroup.lane ++ allBonds.map FlagGroup.bond)

/-- The summary word (R167). -/
def Irq.summary (q : Irq) : Word :=
  packWord (allGroups.zipIdx.map fun g => (bitNat (q.indication g.1), g.2))

/-- IRQ is asserted while a pending flag is enabled (R168). -/
def Irq.asserted (q : Irq) : Bool := allGroups.any q.indication

/-- How the part drives a line. -/
inductive LineDrive where
  | low | high | released
  deriving DecidableEq, Repr

/-- The IRQ line (R169). -/
def Irq.line (q : Irq) : LineDrive :=
  match q.drive, q.level, q.asserted with
  | .pushPull, .activeLow, true => .low
  | .pushPull, .activeLow, false => .high
  | .pushPull, .activeHigh, true => .high
  | .pushPull, .activeHigh, false => .low
  | .openDrain, .activeLow, true => .low
  | .openDrain, .activeLow, false => .released
  | .openDrain, .activeHigh, true => .released
  | .openDrain, .activeHigh, false => .low

end Sys2Proof.Machine
end

