-- ==== Sys2Proof/Machine/Ops.lean ====
section
/-! DEFINITION. The named operations over the state that every family uses: updates of one lane, entry, buffer or bond,
timers, membership and claims, counters, and the clears of buffers and entries. -/

namespace Sys2Proof.Machine

/-! ## Timers -/

/-- A timer started from zero toward a limit in ticks. -/
def Timer.start (limit : Nat) : Timer := .running 0 limit

/-- Whether a timer runs. -/
def Timer.isRunning : Timer → Bool
  | .running _ _ => true
  | .stopped | .held _ => false

/-- One timebase tick of a timer. -/
def Timer.tick : Timer → Timer
  | .running t l => .running (if t < l then t + 1 else t) l
  | t => t

/-- Whether a running timer has counted to its limit: it expires then and not before (R20, R76, R126, R177; log 3). -/
def Timer.due : Timer → Bool
  | .running t l => l ≤ t
  | .stopped | .held _ => false

/-- A timer held at the count it has reached, zero if it was stopped (R35). -/
def Timer.hold : Timer → Timer
  | .running t _ => .held t
  | .held t => .held t
  | .stopped => .held 0

/-- A bond's timer of so many milliseconds, from zero (R76, R126). -/
def Timer.ofMs (ms : BitVec 8) : Timer := .start (ms.toNat * Config.ticksPerMs)

/-! ## Updates of one part of the state -/

namespace State

def modLane (s : State) (n : Lane) (f : LaneRx → LaneRx) : State :=
  { s with lanes := s.lanes.set n (f (s.lanes.get n)) }

def modRoll (s : State) (n : Lane) (f : RollCall → RollCall) : State :=
  { s with rolls := s.rolls.set n (f (s.rolls.get n)) }

def modBuf (s : State) (n : Lane) (f : Buffer → Buffer) : State :=
  { s with bufs := s.bufs.set n (f (s.bufs.get n)) }

def modBond (s : State) (b : BondId) (f : Bond → Bond) : State :=
  { s with bonds := s.bonds.set b (f (s.bonds.get b)) }

def modSnap (s : State) (f : Snapshot → Snapshot) : State := { s with snap := f s.snap }

def modPort (s : State) (f : HostPort → HostPort) : State := { s with port := f s.port }

end State

/-! ## Membership and claims -/

/-- Whether a lane is in the member set. -/
def BondConfig.isMember (cfg : BondConfig) (n : Lane) : Bool := cfg.members.getLsbD n.val

/-- Whether a lane is in the member set or is the spare. -/
def BondConfig.names (cfg : BondConfig) (n : Lane) : Bool := cfg.isMember n || cfg.spare == some n

/-- The members in number order. -/
def BondConfig.memberList (cfg : BondConfig) : List Lane := allLanes.filter cfg.isMember

/-- A bond claims the lanes it names while it is not DISABLED (R63). -/
def Bond.claims (bd : Bond) (n : Lane) : Bool := bd.state != .disabled && bd.cfg.names n

/-- The owning bond of a lane, if any (R30). -/
def State.owner (s : State) (n : Lane) : Option BondId := allBonds.find? fun b => (s.bonds.get b).claims n

/-- Whether every member of a bond reads LOCKED (R78, R79). -/
def State.membersLocked (s : State) (b : BondId) : Bool :=
  (s.bonds.get b).cfg.memberList.all fun n => (s.lanes.get n).mode == .locked

/-- Whether the entry of every member of a bond reads CONFIRMED (R81). -/
def State.membersConfirmed (s : State) (b : BondId) : Bool :=
  (s.bonds.get b).cfg.memberList.all fun n => (s.rolls.get n).entry.status == .confirmed

/-- The physical lane of a logical index by the lane order map. -/
def Bond.laneOf (bd : Bond) (i : Index) : Option Lane := bd.map.bind fun m => m.get i

/-- A lane's logical index by the lane order map ("map index", R160). -/
def Bond.indexOf (bd : Bond) (n : Lane) : Option Index := allIndices.find? fun i => bd.laneOf i == some n

/-- L of the active profile, 0 while it is absent. -/
def Bond.laneCount (bd : Bond) : Nat :=
  match bd.profile with
  | some p => p.shape.lanes
  | none => 0

/-- The logical indices below a lane count, in order. -/
def indicesBelow (l : Nat) : List Index := allIndices.filter fun i => i.val < l

/-- The bond_tag of a bond's call word (R12). -/
def Bond.tag (bd : Bond) : BitVec 4 :=
  match bd.profile with
  | some p => p.bondTag
  | none => bd.cfg.expTag

/-- The current call word of a bond (R12): its kind and index follow the bond's state and mend phase (the table "The
states at a glance" of 05_bond_sequencing.md, R125, R130), and its bond_tag follows its source. -/
def Bond.callWord (bd : Bond) : CallWord :=
  match bd.state with
  | .disabled => ⟨.quiet, bd.tag, 0⟩
  | .holding => ⟨.hold, bd.tag, 0⟩
  | .calling => ⟨.call, bd.tag, 0⟩
  | .aligning => ⟨.go, bd.tag, 0⟩
  | .running => ⟨.go, bd.tag, 0⟩
  | .halted => ⟨.hold, bd.tag, 0⟩
  | .mending =>
    match bd.mend with
    | some m =>
      match m.phase, m.method with
      | .seat, _ => ⟨.resume, bd.tag, m.k⟩
      | .announce, .move => ⟨.move, bd.tag, m.k⟩
      | .announce, .rejoin => ⟨.rejoin, bd.tag, m.k⟩
    | none => ⟨.go, bd.tag, 0⟩

/-! ## Buffers and entries -/

/-- A cleared buffer: no entry, write side CLOSED (R121); the mark memory is kept in every state (R101). -/
def Buffer.clear (bf : Buffer) : Buffer := { bf with entries := [], side := .closed, sweepCount := 0 }

/-- A write side that goes to CLOSED and keeps its entries (R99, R102). -/
def Buffer.close (bf : Buffer) : Buffer := { bf with side := .closed, sweepCount := 0 }

/-- Clear the buffers of the lanes that `p` names. -/
def State.clearBufs (s : State) (p : Lane → Bool) : State :=
  { s with bufs := s.bufs.mapIdx fun n bf => if p n then bf.clear else bf }

/-- Close the write sides of the lanes that `p` names. -/
def State.closeBufs (s : State) (p : Lane → Bool) : State :=
  { s with bufs := s.bufs.mapIdx fun n bf => if p n then bf.close else bf }

/-- A bond's clear of an entry (R51): the counters stay, and so do listening and an open record. -/
def Entry.clear (e : Entry) : Entry :=
  { e with status := .empty, repeats := 0, record := Record.zero, captured := 0 }

def RollCall.clearEntry (r : RollCall) : RollCall := { r with entry := r.entry.clear }

/-- The entry-status notices of a clear of the entries that `p` names: EMPTY from each whose status it changes (R51,
R53). -/
def State.clearNotices (s : State) (p : Lane → Bool) : List Notice :=
  (allLanes.filter fun n => p n && (s.rolls.get n).entry.status != .empty).map fun n => .entryStatus n .empty

/-- Notices join what is on its way to a bond, after what was sent before (R75; log 1). -/
def Bond.send (bd : Bond) (xs : List Notice) : Bond := { bd with inFlight := bd.inFlight ++ xs }

/-- A bond clears the entries of the lanes that `p` names, which it owns (R51). It takes the notices of the clear as events
of their own (R53): they are on their way to it when the event that clears ends (log 1). -/
def State.clearEntries (s : State) (b : BondId) (p : Lane → Bool) : State :=
  { s with
    rolls := s.rolls.mapIdx fun n r => if p n then r.clearEntry else r
    bonds := s.bonds.set b ((s.bonds.get b).send (s.clearNotices p)) }

/-! ## The read side of a bond, as other rules move it -/

/-- S of the run shape, from which the read side takes its sweep period (R141). -/
def Bond.runSweep (bd : Bond) : Nat :=
  match bd.ra.runShape with
  | some sh => sh.sweep
  | none => 0

/-- Whether a sweep is in progress: from the read of its first read slot until the read of its last (R118). Phase 1 is
the first read slot and phase S the last. -/
def ReadSide.inSweep (rd : ReadSide) (sweep : Nat) : Bool :=
  (1 < rd.phase && rd.phase < sweep) || (rd.phase == 1 && rd.slotTaken) || (rd.phase == sweep && !rd.slotTaken)

/-- Whether a bond counts as RUNNING for its read side and reassembly: in RUNNING, and from a release on while its report
is still on its way (R115, R145, R146). -/
def Bond.countsRunning (bd : Bond) : Bool :=
  match bd.state with
  | .running => true
  | .aligning => bd.rel.state == .released
  | .disabled | .holding | .calling | .mending | .halted => false

/-- The read side goes to IDLE: phase 0 (R113), no lane withdrawn (R118), the run shape absent (R141). -/
def Bond.readIdle (bd : Bond) : Bond :=
  { bd with
    rd := { bd.rd with state := .idle, phase := 0, withdrawn := 0, whole := false, slotTaken := false }
    ra := { bd.ra with runShape := none } }

/-- What a departure of the bond from its state does to the read side and reassembly (R118, R146): with a sweep in
progress it is completed, otherwise the read side goes to IDLE at once; the sweep standing is SPOILED. A read side that
is COMPLETING goes on, but one that only waits at phase 0 for a postponed release goes to IDLE too (log 17). -/
def Bond.leaveRun (bd : Bond) : Bond :=
  let bd := { bd with ra := { bd.ra with standing := .spoiled } }
  match bd.rd.state with
  | .idle => bd
  | .completing => if bd.rd.phase = 0 then bd.readIdle else bd
  | .reading =>
    if bd.rd.inSweep bd.runSweep then { bd with rd := { bd.rd with state := .completing, whole := false } }
    else bd.readIdle

/-- The read side withdraws a lane (R117); an IDLE read side has none (R118). -/
def Bond.withdraw (bd : Bond) (n : Lane) : Bond :=
  match bd.rd.state with
  | .idle => bd
  | .reading | .completing => { bd with rd := { bd.rd with withdrawn := bd.rd.withdrawn ||| BitVec.twoPow 8 n.val } }

/-- The read side of the lane's owning bond withdraws it. -/
def State.withdraw (s : State) (n : Lane) : State :=
  match s.owner n with
  | some b => s.modBond b fun bd => bd.withdraw n
  | none => s

/-- A release unit that goes to IDLE with every optional field absent; the GO indication is no field of that kind
(R100, R107). -/
def ReleaseUnit.toIdle (r : ReleaseUnit) : ReleaseUnit := { ReleaseUnit.reset with go := r.go }

end Sys2Proof.Machine
end

