-- ==== Sys2Proof/Machine/Sequencing.lean ====
section
/-! DEFINITION. Bond sequencing: the entry actions of each state, the one handling of a fault, the start of a mend, the
roll-call evaluation, and what a bond does with the notices and reports it takes (05_bond_sequencing.md,
07_mending.md). -/

namespace Sys2Proof.Machine

/-! ## Leaving a state -/

/-- Every bond timer stopped. -/
def Bond.stopTimers (bd : Bond) : Bond :=
  { bd with holdTimer := .stopped, callTimer := .stopped, alignTimer := .stopped, mendTimer := .stopped }

/-- A mend in progress ends without a seat: outcome FAILED, any seat in progress abandoned (R139). -/
def Bond.endMend (bd : Bond) : Bond :=
  match bd.state with
  | .mending => { bd with mend := bd.mend.map fun m => { m with outcome := .failed }, seat := none }
  | .disabled | .holding | .calling | .aligning | .running | .halted => bd

/-- The hold timer on entry to HOLDING: none when the hold timeout is 0 (R76). -/
def BondConfig.holdTimerStart (cfg : BondConfig) : Timer :=
  if cfg.holdTimeout = 0 then .stopped else .ofMs cfg.holdTimeout

/-! ## Entering a state -/

/-- What entry to HOLDING does to the bond itself (R78, R107). -/
def Bond.toHolding (bd : Bond) : Bond :=
  let bd := bd.endMend.leaveRun.stopTimers
  { bd with
    state := .holding, profile := none, map := none, offsets := Eight.rep none, settle := 0
    holdTimer := bd.cfg.holdTimerStart, rel := bd.rel.toIdle }

/-- What entry to CALLING does to the bond itself (R80). -/
def Bond.toCalling (bd : Bond) : Bond :=
  { bd with state := .calling, holdTimer := .stopped, callTimer := .ofMs bd.cfg.callTimeout }

/-- What entry to HALTED does to the bond itself (R94): the release unit goes to IDLE and keeps its fields (R107). -/
def Bond.toHalted (bd : Bond) : Bond :=
  let bd := bd.endMend.leaveRun.stopTimers
  { bd with state := .halted, rel := { bd.rel with state := .idle } }

/-- What entry to DISABLED by STOP does to the bond itself (R69, R74, R107). -/
def Bond.toDisabled (bd : Bond) : Bond :=
  let bd := bd.endMend.leaveRun.stopTimers
  { bd with
    state := .disabled, profile := none, map := none, offsets := Eight.rep none, rel := bd.rel.toIdle }

/-- Entry to CALLING clears every member's entry, not the spare's (R80). -/
def enterCalling (b : BondId) (s : State) : State :=
  (s.modBond b Bond.toCalling).clearEntries b (s.bonds.get b).cfg.isMember

/-- Entry to HOLDING (R78): the buffers of the members and the spare are cleared (R121), and with every member LOCKED
the bond goes on to CALLING as the same event. -/
def enterHolding (b : BondId) (s : State) : State :=
  let s := (s.modBond b Bond.toHolding).clearBufs (s.bonds.get b).cfg.names
  if s.membersLocked b then enterCalling b s else s

/-- Entry to HALTED (R94): the write sides close without clearing (R121), the joining lane's too (R139). -/
def enterHalted (b : BondId) (s : State) : State :=
  ((s.modBond b Bond.toHalted).closeBufs (s.bonds.get b).cfg.names).raiseBond b .halted

/-- Entry to DISABLED by STOP (R69, R121). -/
def enterDisabled (b : BondId) (s : State) : State :=
  (s.modBond b Bond.toDisabled).clearBufs (s.bonds.get b).cfg.names

/-! ## Faults -/

/-- The first step of a fault: an empty record is filled, a filled one counts (R95, R159). -/
def Bond.capture (bd : Bond) (f : FaultRec) : Bond :=
  match bd.fault with
  | none => { bd with fault := some f }
  | some _ => { bd with faultCount := satInc bd.faultCount }

/-- A fault is captured and FAULT raised (R95, step 1). -/
def captureFault (b : BondId) (cause : FaultCause) (lane : Option Lane) (index : Option Index)
    (detail : Option Detail) (s : State) : State :=
  (s.modBond b fun bd => bd.capture ⟨cause, bd.state, lane, index, detail, s.timestamp⟩).raiseBond b .fault

/-- A fault of a bond: captured, then a retrain below the limit and HALTED at it (R95). -/
def takeFault (b : BondId) (cause : FaultCause) (lane : Option Lane) (index : Option Index)
    (detail : Option Detail) (s : State) : State :=
  let s' := captureFault b cause lane index detail s
  if (s.bonds.get b).retrain < (s.bonds.get b).cfg.retrainLimit.toNat then
    enterHolding b (s'.modBond b fun bd => { bd with retrain := bd.retrain + 1 })
  else enterHalted b s'

/-- A fault that names a lane and its map index. -/
def takeLaneFault (b : BondId) (cause : FaultCause) (n : Lane) (detail : Option Detail) (s : State) : State :=
  takeFault b cause (some n) ((s.bonds.get b).indexOf n) detail s

/-! ## Roll call -/

/-- The first common field in which two records differ, in the order of R82's condition 1. -/
def Profile.firstDifference (p q : Profile) : Option FieldName :=
  if p.sourceId ≠ q.sourceId then some .sourceId
  else if p.bondTag ≠ q.bondTag then some .bondTag
  else if p.shape.laneCode ≠ q.shape.laneCode then some .laneCount
  else if p.shape.chanCode ≠ q.shape.chanCode then some .channelCount
  else if p.shape.sweepCode ≠ q.shape.sweepCode then some .sweepLength
  else if p.spareCapable ≠ q.spareCapable then some .spareCapable
  else none

/-- The first compared field that differs from the expected profile, in the order of R82's condition 4. -/
def BondConfig.firstMismatch (cfg : BondConfig) (p : Profile) : Option FieldName :=
  if cfg.careSource = true ∧ p.sourceId ≠ cfg.expSource then some .sourceId
  else if cfg.careTag = true ∧ p.bondTag ≠ cfg.expTag then some .bondTag
  else if p.shape.laneCode ≠ cfg.expShape.laneCode then some .laneCount
  else if p.shape.sweepCode ≠ cfg.expShape.sweepCode then some .sweepLength
  else if p.shape.chanCode ≠ cfg.expShape.chanCode then some .channelCount
  else none

/-- The members that announce a logical index, in number order. -/
def State.announcers (s : State) (b : BondId) (i : Index) : List Lane :=
  (s.bonds.get b).cfg.memberList.filter fun n => (s.rolls.get n).entry.record.logicalIndex.toNat == i.val

/-- The outcome of a roll-call evaluation: the fault with its details, or the profile of a roll call that passes. -/
inductive RollVerdict where
  | fault (cause : FaultCause) (lane : Option Lane) (index : Option Index) (detail : Option Detail)
  | pass (p : Profile)
  deriving DecidableEq, Repr

/-- Condition 1 of R82: the lowest-numbered member whose common fields differ from those of the lowest-numbered
member. -/
def State.announceMismatch (s : State) (b : BondId) (p : Profile) : Option (Lane × Index × FieldName) :=
  (s.bonds.get b).cfg.memberList.findSome? fun n =>
    let r := (s.rolls.get n).entry.record
    (r.common.firstDifference p).map fun f => (n, Fin.ofNat 8 r.logicalIndex.toNat, f)

/-- Condition 3 of R82: the smallest index announced by two or more members, and the second of them. -/
def State.duplicateIndex (s : State) (b : BondId) : Option (Index × Lane) :=
  allIndices.findSome? fun i =>
    match s.announcers b i with
    | _ :: second :: _ => some (i, second)
    | _ => none

/-- The roll-call evaluation (R82), with the profile of the lowest-numbered member. -/
def State.judgeRollCall (s : State) (b : BondId) (p : Profile) : RollVerdict :=
  let cfg := (s.bonds.get b).cfg
  match s.announceMismatch b p with
  | some (n, i, f) => .fault .announceMismatch (some n) (some i) (some (.field f))
  | none =>
    if p.shape.lanes ≠ cfg.memberList.length then .fault .laneCount none none none
    else
      match s.duplicateIndex b with
      | some (i, n) => .fault .duplicateIndex (some n) (some i) none
      | none =>
        match (if cfg.matchMode = .exact then cfg.firstMismatch p else none) with
        | some f => .fault .profileMismatch none none (some (.field f))
        | none => if p.shape.usable then .pass p else .fault .profileUnusable none none none

/-- The lane order map of a roll call that passes (R83). -/
def State.rollMap (s : State) (b : BondId) (l : Nat) : Eight (Option Lane) :=
  Eight.ofFn fun i => if i.val < l then (s.announcers b i).head? else none

/-- Whether a notice or report has an effect on a bond in CALLING: a member's lock-lost notice and the entry-status
notices (R81, R91). -/
def Notice.actsInCalling (cfg : BondConfig) : Notice → Bool
  | .lockLost n _ => cfg.isMember n
  | .entryStatus _ _ => true
  | .lockGained _ | .markSlip _ | .overflow _ | .skew _ _ | .released | .sweepCompleted _ | .underflow _ | .epochDrift =>
    false

/-- Entry to ALIGNING (R83, R87, R108). What is on its way to the bond and has no effect in CALLING has arrived there by
then: a report of an attempt that has ended never meets the next one (R92, R97; DESIGN CHOICE, log 1). -/
def enterAligning (b : BondId) (p : Profile) (s : State) : State :=
  let m := s.rollMap b p.shape.lanes
  let s := s.modBond b fun bd =>
    { bd with
      state := .aligning, profile := some p, map := some m, callTimer := .stopped
      alignTimer := .ofMs bd.cfg.alignTimeout
      inFlight := bd.inFlight.filter (Notice.actsInCalling bd.cfg)
      rel := { bd.rel.toIdle with state := .markWait } }
  { s with bufs := s.bufs.mapIdx fun n bf =>
      if (s.bonds.get b).indexOf n = none then bf else { bf with side := .watching, sweepCount := 0 } }

/-- The roll call of a bond is evaluated (R82, R83). -/
def evaluateRollCall (b : BondId) (s : State) : State :=
  match (s.bonds.get b).cfg.memberList.head? with
  | none => s
  | some n =>
    match s.judgeRollCall b (s.rolls.get n).entry.record.common with
    | .fault cause lane index detail => takeFault b cause lane index detail s
    | .pass p => enterAligning b p s

/-! ## Mending -/

/-- The reference of a mend: the lowest logical index other than k, or index 0 when there is no other (R123, R133). -/
def Bond.refIndex (bd : Bond) (k : Index) : Index :=
  if bd.laneCount ≤ 1 then 0 else if k = 0 then 1 else 0

/-- Whether MOVE is chosen, and its joining lane (R124). -/
def State.moveTarget (s : State) (b : BondId) : Option Lane :=
  let bd := s.bonds.get b
  match bd.cfg.spare, bd.profile with
  | some sp, some p => if (s.lanes.get sp).mode = .locked ∧ p.spareCapable = true then some sp else none
  | _, _ => none

/-- The mend record of a mend that begins (R122, R123, R124). -/
def State.newMend (s : State) (b : BondId) (n : Lane) (cause : TriggerCause) : MendRec :=
  let bd := s.bonds.get b
  let k := (bd.indexOf n).getD 0
  { trigger := n
    k := k
    cause := cause
    method := if (s.moveTarget b).isSome then .move else .rejoin
    joining := (s.moveTarget b).getD n
    reference := if bd.laneCount ≤ 1 then none else bd.laneOf (bd.refIndex k)
    phase := .announce
    outcome := .inProgress
    offset := none }

/-- Entry to MENDING (R93, R125). -/
def startMend (b : BondId) (n : Lane) (cause : TriggerCause) (s : State) : State :=
  let m := s.newMend b n cause
  let s := s.modBond b fun bd =>
    { bd with
      state := .mending, mend := some m, seat := none, settle := 0, mendTimer := .ofMs bd.cfg.mendTimeout
      ra := { bd.ra with standing := .spoiled } }
  let s := s.clearBufs fun l => l == n || l == m.joining
  (s.clearEntries b fun l => l == m.joining).raiseBond b .mendStarted

/-- A lane fault of a member in RUNNING: a mend with mending on, otherwise the fault (R89). -/
def runningLaneFault (b : BondId) (n : Lane) (trigger : TriggerCause) (cause : FaultCause) (s : State) : State :=
  if (s.bonds.get b).cfg.mending then startMend b n trigger s else takeLaneFault b cause n none s

/-- The mend record of a bond changed. -/
def Bond.modMend (bd : Bond) (f : MendRec → MendRec) : Bond := { bd with mend := bd.mend.map f }

/-- The mend returns to ANNOUNCE, or stays there (R137). -/
def returnToAnnounce (b : BondId) (joining : Lane) (s : State) : State :=
  (s.modBond b fun bd =>
    { bd.modMend fun m => { m with phase := .announce, offset := none } with seat := none }).modBuf
      joining Buffer.close

/-- The first field in which the joining lane's record differs from the active profile or from k (R129). -/
def mendDifference (r : Record) (p : Profile) (k : Index) : Option FieldName :=
  match r.common.firstDifference p with
  | some f => some f
  | none => if r.logicalIndex.toNat = k.val then none else some .logicalIndex

/-- The mend check: SEAT, or MEND_MISMATCH (R129, R130). -/
def mendCheck (b : BondId) (m : MendRec) (p : Profile) (s : State) : State :=
  match mendDifference (s.rolls.get m.joining).entry.record p m.k with
  | some f => takeFault b .mendMismatch (some m.joining) (some m.k) (some (.field f)) s
  | none => s.modBond b fun bd => { bd.modMend fun m => { m with phase := .seat, offset := none } with seat := none }

/-! ## Notices and reports that a bond takes -/

/-- An entry-status notice that carries CONFIRMED (R81, R128). -/
def bondTakesConfirmed (b : BondId) (n : Lane) (s : State) : State :=
  let bd := s.bonds.get b
  match bd.state with
  | .calling => if bd.cfg.isMember n = true ∧ s.membersConfirmed b = true then evaluateRollCall b s else s
  | .mending =>
    match bd.mend, bd.profile with
    | some m, some p =>
      if m.joining = n ∧ m.phase = .announce ∧ (s.rolls.get n).entry.status = .confirmed
          ∧ (s.lanes.get n).mode = .locked then mendCheck b m p s
      else s
    | _, _ => s
  | .disabled | .holding | .aligning | .running | .halted => s

/-- An entry-status notice: CONFIRMED acts in CALLING and in a mend's phase ANNOUNCE; SEEN, STALE and EMPTY have no effect
in any state (R53, R81, R128). -/
def bondTakesEntryStatus (b : BondId) (n : Lane) (status : EntryStatus) (s : State) : State :=
  match status with
  | .confirmed => bondTakesConfirmed b n s
  | .empty | .seen | .stale => s

/-- A lock-gained notice of a member (R79). -/
def bondTakesLockGained (b : BondId) (n : Lane) (s : State) : State :=
  let bd := s.bonds.get b
  if bd.state = .holding ∧ bd.cfg.isMember n = true ∧ s.membersLocked b = true then enterCalling b s else s

/-- The bond fault of a loss cause (R91). -/
def LossCause.fault : LossCause → FaultCause
  | .strikes | .frequency => .laneLost
  | .disabled => .laneDisabled
  | .reference => .refLost

/-- The SUB_CAUSE of a loss cause (R138). -/
def LossCause.subCause : LossCause → SubCause
  | .strikes | .frequency | .reference => .laneLost
  | .disabled => .laneDisabled

/-- A lock-lost notice in MENDING (R137, R138): with cause REFERENCE from a lane that the bond owns, from the joining lane,
or from another member than the trigger lane. -/
def mendingLockLost (b : BondId) (m : MendRec) (n : Lane) (cause : LossCause) (s : State) : State :=
  if cause = .reference then
    if (s.bonds.get b).cfg.names n then takeLaneFault b .refLost n none s else s
  else if n = m.joining then returnToAnnounce b n s
  else if n ≠ m.trigger ∧ (s.bonds.get b).cfg.isMember n = true then
    takeLaneFault b .secondLane n (some (.subCause cause.subCause)) s
  else s

/-- A lock-lost notice (R91). -/
def bondTakesLockLost (b : BondId) (n : Lane) (cause : LossCause) (s : State) : State :=
  let bd := s.bonds.get b
  match bd.state with
  | .disabled | .holding | .halted => s
  | .calling | .aligning => if bd.cfg.isMember n then takeLaneFault b cause.fault n none s else s
  | .running =>
    if bd.cfg.isMember n then
      match cause with
      | .strikes => runningLaneFault b n .strikes .laneLost s
      | .frequency => runningLaneFault b n .frequency .laneLost s
      | .disabled => takeLaneFault b .laneDisabled n none s
      | .reference => takeLaneFault b .refLost n none s
    else s
  | .mending =>
    match bd.mend with
    | some m => mendingLockLost b m n cause s
    | none => s

/-- A report about another member in MENDING (R138). -/
def mendingReport (b : BondId) (m : MendRec) (n : Lane) (sub : SubCause) (s : State) : State :=
  if n ≠ m.trigger ∧ n ≠ m.joining ∧ (s.bonds.get b).cfg.isMember n = true then
    takeLaneFault b .secondLane n (some (.subCause sub)) s
  else s

/-- A MARK_SLIP report (R87, R89, R104, R135, R138). -/
def bondTakesMarkSlip (b : BondId) (n : Lane) (s : State) : State :=
  let bd := s.bonds.get b
  match bd.state with
  | .aligning => if bd.cfg.isMember n then takeLaneFault b .markSlip n none s else s
  | .running => if bd.cfg.isMember n then runningLaneFault b n .markSlip .markSlip s else s
  | .mending =>
    match bd.mend with
    | some m =>
      if n = m.joining then
        if bd.seat.isSome then
          s.modBond b fun bd => { bd.modMend fun m => { m with offset := none } with seat := none }
        else s
      else mendingReport b m n .markSlip s
    | none => s
  | .disabled | .holding | .calling | .halted => s

/-- An OVERFLOW report (R87, R105). -/
def bondTakesOverflow (b : BondId) (n : Lane) (s : State) : State :=
  let bd := s.bonds.get b
  if bd.state = .aligning ∧ bd.cfg.isMember n = true then takeLaneFault b .overflow n none s else s

/-- An UNDERFLOW report (R89, R117, R138). -/
def bondTakesUnderflow (b : BondId) (n : Lane) (s : State) : State :=
  let bd := s.bonds.get b
  match bd.state with
  | .running => if bd.cfg.isMember n then runningLaneFault b n .underflow .underflow s else s
  | .mending =>
    match bd.mend with
    | some m => mendingReport b m n .underflow s
    | none => s
  | .disabled | .holding | .calling | .aligning | .halted => s

/-- A SKEW report (R87, R109): the fault SKEW in ALIGNING, with the lane's map index as the fault is taken (R160). -/
def bondTakesSkew (b : BondId) (lane : Option Lane) (units : Nat) (s : State) : State :=
  if (s.bonds.get b).state = .aligning then
    takeFault b .skew lane (lane.bind (s.bonds.get b).indexOf) (some (.skew units)) s
  else s

/-- Entry to RUNNING by the release report (R88). -/
def Bond.toRunning (bd : Bond) : Bond := { bd with state := .running, alignTimer := .stopped }

/-- A release report: taken in ALIGNING, it is the entry to RUNNING (R88, R112). A report whose release unit is no longer
RELEASED is one of an attempt that has ended, and has no effect. -/
def bondTakesReleased (b : BondId) (s : State) : State :=
  if (s.bonds.get b).state = .aligning ∧ (s.bonds.get b).rel.state = .released then
    (s.modBond b Bond.toRunning).raiseBond b .runningEntered
  else s

/-- A sweep-completed notice taken in RUNNING for a whole sweep: the settle count rises to 4096, and reaching it forgives
the retrains (R90). -/
def Bond.settleSweep (bd : Bond) (whole : Bool) : Bond :=
  if bd.state = .running ∧ whole = true ∧ bd.settle < Config.settleLimit then
    { bd with
      settle := bd.settle + 1
      retrain := if bd.settle + 1 = Config.settleLimit then 0 else bd.retrain }
  else bd

/-- An EPOCH_DRIFT report: a fault in RUNNING under epoch policy RETRAIN (R89). -/
def bondTakesEpochDrift (b : BondId) (s : State) : State :=
  if (s.bonds.get b).state = .running ∧ (s.bonds.get b).cfg.epochPolicy = .retrain then
    takeFault b .epochDrift none none none s
  else s

/-! ## How a notice or report reaches a bond -/

/-- A bond takes a notice or report against the state it is in at that moment (R75). -/
def bondTakes (b : BondId) (x : Notice) (s : State) : State :=
  match x with
  | .lockGained n => bondTakesLockGained b n s
  | .lockLost n cause => bondTakesLockLost b n cause s
  | .entryStatus n status => bondTakesEntryStatus b n status s
  | .markSlip n => bondTakesMarkSlip b n s
  | .overflow n => bondTakesOverflow b n s
  | .skew lane units => bondTakesSkew b lane units s
  | .released => bondTakesReleased b s
  | .sweepCompleted whole => s.modBond b fun bd => bd.settleSweep whole
  | .underflow n => bondTakesUnderflow b n s
  | .epochDrift => bondTakesEpochDrift b s

/-- The sender of a notice or report (R75). Whether the release unit and the read side of a bond are one sender, with one
order of messages, or two is open: here they are one (DESIGN CHOICE, log 33). -/
def Notice.sender : Notice → Sender
  | .lockGained n => .receiver n
  | .lockLost n _ => .receiver n
  | .entryStatus _ _ => .rollCall
  | .markSlip n => .writeSide n
  | .overflow n => .writeSide n
  | .skew _ _ => .readSide
  | .released => .readSide
  | .sweepCompleted _ => .readSide
  | .underflow _ => .readSide
  | .epochDrift => .readSide

/-- A bond takes the earliest message on its way to it, while the rest still is: an entry to ALIGNING that this one brings
about finds the reports of an ended attempt there (R97; log 1). -/
def takeFirst (b : BondId) (s : State) : State :=
  match (s.bonds.get b).inFlight with
  | x :: rest => bondTakes b x (s.modBond b fun bd => { bd with inFlight := rest })
  | [] => s

/-- A bond takes the earliest notice or report that a sender has on its way to it, if there is one (R75). -/
def takeNext (b : BondId) (x : Sender) (s : State) : State :=
  match (s.bonds.get b).inFlight.find? fun y => y.sender == x with
  | some y => bondTakes b y (s.modBond b fun bd => { bd with inFlight := bd.inFlight.eraseP fun y => y.sender == x })
  | none => s

/-- A bond takes all that one sender has on its way to it, one message after the other in the order sent (R75). -/
def takeFrom (b : BondId) (x : Sender) (s : State) : State :=
  ((s.bonds.get b).inFlight.filter fun y => y.sender == x).foldl (fun s _ => takeNext b x s) s

/-- A notice or report is sent to a bond (R75): it stays on its way, or the bond takes it now, after what the same sender
has sent before it and ahead of what is on its way from others (log 1). -/
def State.tell (s : State) (b : BondId) (x : Notice) (late : Bool) : State :=
  if late then s.modBond b fun bd => bd.send [x] else bondTakes b x (takeFrom b x.sender s)

/-- Every bond takes what a lane receiver has on its way to it: so it is as the lane locks again, for a lock loss never
meets a bond that has all its members back (R91, R92; DESIGN CHOICE, log 1). -/
def State.arrivedFrom (s : State) (x : Sender) : State := allBonds.foldl (fun s b => takeFrom b x s) s

/-- A bond takes what is on its way to it now, one message after the other in the order sent (R75). -/
def takeSent (b : BondId) (s : State) : State := (s.bonds.get b).inFlight.foldl (fun s _ => takeFirst b s) s

/-- A bond takes all that is on its way to it, and then the notices of the clears that this has brought about, which carry
EMPTY and bring nothing about (R51, R53). -/
def takeInFlight (b : BondId) (s : State) : State := takeSent b (takeSent b s)

/-- Every bond takes what is on its way to it. -/
def State.landed (s : State) : State := allBonds.foldl (fun s b => takeInFlight b s) s

/-- What arrives as a unit time ends: everything, or the notices and reports named, in their order, and the rest stays on
its way (R75, R106; log 1). -/
def State.arrived (s : State) (arrivals : Option (List (BondId × Sender))) : State :=
  match arrivals with
  | none => s.landed
  | some picks => picks.foldl (fun s p => takeNext p.1 p.2 s) s

/-- A report goes to the lane's owning bond, or to its release unit, if it has one (R30, R101, R131). -/
def State.toOwner (s : State) (n : Lane) (take : BondId → State → State) : State :=
  match s.owner n with
  | some b => take b s
  | none => s

/-- A notice about a lane is sent to its owning bond, if it has one (R30, R53, R75). -/
def State.tellOwner (s : State) (n : Lane) (x : Notice) (late : Bool) : State :=
  s.toOwner n fun b s => s.tell b x late

end Sys2Proof.Machine
end

