-- ==== Sys2Proof/Machine/Snapshots.lean ====
section
/-! DEFINITION. The snapshot unit (10_lane_snapshot.md). -/

namespace Sys2Proof.Machine

/-- The trigger of a trigger code; 3 names none (R173, snapshot block). -/
def snapTriggerOf (code : BitVec 2) : Option SnapTrigger :=
  match code.toNat with
  | 0 => some .next
  | 1 => some .atMark
  | 2 => some .atHead
  | _ => none

/-- How a request is judged (R173). -/
def Snapshot.judge (sn : Snapshot) (mode : LaneMode) : RequestResult :=
  match sn.state with
  | .armed | .filling => .busy
  | .idle | .done | .aborted => if mode = .off then .laneOff else .accepted

/-- A request taken, accepted or refused (R173). -/
def Snapshot.takeRequest (sn : Snapshot) (n : Lane) (tr : SnapTrigger) (count : Nat) (mode : LaneMode) : Snapshot :=
  match sn.judge mode with
  | .accepted =>
    { state := .armed, lane := some n, trigger := some tr, count := some count, entries := [], instant := none
      abort := none, lastResult := some .accepted, seq := sn.seq + 1
      timer := .start Config.ticksPerMs }
  | .busy => { sn with lastResult := some .busy, seq := sn.seq + 1 }
  | .laneOff => { sn with lastResult := some .laneOff, seq := sn.seq + 1 }

/-- A REQUEST action; a trigger code with no meaning is not taken and raises PORT_ERROR (R173). -/
def snapRequest (n : Lane) (trigger : BitVec 2) (count : BitVec 4) (s : State) : State :=
  match snapTriggerOf trigger with
  | some tr => s.modSnap fun sn => sn.takeRequest n tr (count.toNat + 1) (s.lanes.get n).mode
  | none => s.raiseGlobal .portError

/-- Whether a request is in progress. -/
def Snapshot.busy (sn : Snapshot) : Bool :=
  match sn.state with
  | .armed | .filling => true
  | .idle | .done | .aborted => false

/-- The unit goes to ABORTED and keeps its entries (R177, R178). -/
def Snapshot.abortWith (sn : Snapshot) (cause : AbortCause) : Snapshot :=
  { sn with state := .aborted, abort := some cause, timer := .stopped }

/-- A request in progress ends early: ABORTED and SNAPSHOT_END (R177, R178). -/
def abortSnapshot (cause : AbortCause) (s : State) : State :=
  (s.modSnap fun sn => sn.abortWith cause).raiseGlobal .snapshotEnd

/-- CANCEL (R178). -/
def snapCancel (s : State) : State := if s.snap.busy then abortSnapshot .cancelled s else s

/-- The snapshot unit takes a lane-down notice (R177). -/
def snapLaneDown (n : Lane) (s : State) : State :=
  if s.snap.busy = true ∧ s.snap.lane = some n then abortSnapshot .laneDown s else s

/-- Whether a symbol is the trigger symbol (R175). -/
def SnapTrigger.fires : SnapTrigger → SymbolClass → Bool
  | .next, _ => true
  | .atMark, cls => cls == .mark
  | .atHead, cls => cls == .head

/-- A symbol is recorded; at the request count the unit goes to DONE (R175, R176). -/
def recordSymbol (cls : SymbolClass) (s : State) : State :=
  let entries := s.snap.entries ++ [cls]
  if s.snap.count.getD 0 ≤ entries.length then
    (s.modSnap fun sn => { sn with entries := entries, state := .done }).raiseGlobal .snapshotEnd
  else s.modSnap fun sn => { sn with entries := entries, state := .filling }

/-- The snapshot unit takes a classified symbol of a lane (R174 to R176). -/
def snapTake (n : Lane) (cls : SymbolClass) (s : State) : State :=
  if s.snap.lane = some n then
    match s.snap.state, s.snap.trigger with
    | .armed, some tr =>
      if tr.fires cls then
        recordSymbol cls (s.modSnap fun sn => { sn with timer := .stopped, instant := some s.timestamp })
      else s
    | .filling, _ => recordSymbol cls s
    | _, _ => s
  else s

/-- A write of the snapshot control word (R173, R178, snapshot block): REQUEST is action 1, CANCEL action 2. The action
CANCEL beside trigger code 3 is taken as a CANCEL: R178 takes every write with that action, while the register map calls
trigger code 3 a code with no meaning (DESIGN CHOICE, log 29). -/
def writeSnapControl (v : Word) (s : State) : State :=
  match (wordField v 0 2).toNat with
  | 1 => snapRequest (Fin.ofNat 8 (wordField v 2 3).toNat) (wordField v 5 2) (wordField v 7 4) s
  | 2 => snapCancel s
  | _ => s.raiseGlobal .portError

end Sys2Proof.Machine
end

