-- ==== Sys2Proof/Machine/Expiries.lean ====
section
/-! DEFINITION. The expiries of the bond timers and of the arming timer (R76, R79, R86, R87, R126, R177).
An expiry is taken where its timer runs and has counted to its limit; a timer that a change of state has stopped or
started afresh has not, and its expiry does not happen (R76, R97, R126; log 3). -/

namespace Sys2Proof.Machine

/-- The hold timer expires in HOLDING: the lowest-numbered member that does not read LOCKED is named (R79). -/
def holdExpire (b : BondId) (s : State) : State :=
  let bd := s.bonds.get b
  if bd.state = .holding ∧ bd.holdTimer.due = true then
    takeFault b .holdTimeout (bd.cfg.memberList.find? fun n => (s.lanes.get n).mode != .locked) none none s
  else s

/-- The call timer expires in CALLING: the lowest-numbered member whose entry does not read CONFIRMED is named (R86). -/
def callExpire (b : BondId) (s : State) : State :=
  let bd := s.bonds.get b
  if bd.state = .calling ∧ bd.callTimer.due = true then
    takeFault b .callTimeout (bd.cfg.memberList.find? fun n => (s.rolls.get n).entry.status != .confirmed) none none s
  else s

/-- The lowest logical index of a bond that has no start mark (R87). -/
def Bond.unmarkedIndex (bd : Bond) : Option Index :=
  (indicesBelow bd.laneCount).find? fun i => (bd.rel.arrivals.get i).isNone

/-- The align timer expires in ALIGNING: the member of lowest logical index without a start mark is named, with that
index (R87). -/
def alignExpire (b : BondId) (s : State) : State :=
  let bd := s.bonds.get b
  if bd.state = .aligning ∧ bd.alignTimer.due = true then
    takeFault b .alignTimeout (bd.unmarkedIndex.bind bd.laneOf) bd.unmarkedIndex none s
  else s

/-- The mend timer expires in MENDING: the joining lane and k are named (R126). -/
def mendExpire (b : BondId) (s : State) : State :=
  let bd := s.bonds.get b
  if bd.state = .mending ∧ bd.mendTimer.due = true then
    takeFault b .mendTimeout (bd.mend.map MendRec.joining) (bd.mend.map MendRec.k) none s
  else s

/-- The arming timer expires in ARMED (R177). -/
def armingExpire (s : State) : State :=
  if s.snap.state = .armed ∧ s.snap.timer.due = true then abortSnapshot .timeout s else s

end Sys2Proof.Machine
end

