-- ==== Sys2Proof/Machine/HostCommands.lean ====
section
/-! DEFINITION. What the host writes to a bond: the configuration words under their lock (R57 to R62) and the five
commands with the START check (R65 to R72). -/

namespace Sys2Proof.Machine

/-! ## Configuration words -/

/-- The fields of a written configuration word, stored as written (R57, R58; bond block, offsets 0 to 9). -/
def BondConfig.store (cfg : BondConfig) (off : Fin 10) (v : Word) : BondConfig :=
  match off.val with
  | 0 =>
    { cfg with
      members := wordField v 0 8
      spare := if wordBit v 8 then some (Fin.ofNat 8 (wordField v 9 3).toNat) else none }
  | 1 =>
    { cfg with
      matchMode := if wordBit v 0 then .learn else .exact
      careSource := wordBit v 1
      careTag := wordBit v 2
      releaseMode := if wordBit v 3 then .timed else .free
      epochPolicy := if wordBit v 4 then .retrain else .report
      mending := wordBit v 5
      taintPolicy := if wordBit v 6 then .fillRest else .pass
      fillMode := if wordBit v 7 then .hold else .value
      epochTolerance := wordField v 8 4 }
  | 2 => { cfg with expSource := wordField v 7 9, expTag := wordField v 3 4 }
  | 3 => { cfg with expShape := shapeOfWord v }
  | 4 => { cfg with releaseDelay := wordField v 0 12 }
  | 5 => { cfg with skewLimit := wordField v 0 10 }
  | 6 => { cfg with fillValue := v }
  | 7 => { cfg with holdTimeout := wordField v 0 8, callTimeout := wordField v 8 8 }
  | 8 => { cfg with alignTimeout := wordField v 0 8, mendTimeout := wordField v 8 8 }
  | _ => { cfg with retrainLimit := wordField v 0 4 }

/-- A write of a bond's configuration word (R61, R62). -/
def writeBondConfig (b : BondId) (off : Fin 10) (v : Word) (s : State) : State :=
  if (s.bonds.get b).state = .disabled then s.modBond b fun bd => { bd with cfg := bd.cfg.store off v }
  else (s.modPort fun p => { p with refused := some (bondAddr b off.val) }).raiseGlobal .writeRefused

/-! ## The START check -/

/-- The first failing timing field (R68, condition 7; R58). -/
def BondConfig.rangeFailure (cfg : BondConfig) : Option RangeField :=
  if Config.maxSkewLimit < cfg.skewLimit.toNat then some .skewLimit
  else if cfg.callTimeout = 0 then some .callTimeout
  else if cfg.alignTimeout = 0 then some .alignTimeout
  else if cfg.mendTimeout = 0 then some .mendTimeout
  else if Config.maxRetrainLimit < cfg.retrainLimit.toNat then some .retrainLimit
  else none

/-- The other bond that claims a lane (R68, condition 2). -/
def State.claimant (s : State) (b : BondId) (n : Lane) : Option BondId :=
  allBonds.find? fun c => c != b && (s.bonds.get c).claims n

/-- The lowest-numbered lane a bond names that another bond claims, with that bond (R68, condition 2). -/
def State.laneTaken (s : State) (b : BondId) : Option (Lane × BondId) :=
  (allLanes.filter (s.bonds.get b).cfg.names).findSome? fun n => (s.claimant b n).map fun c => (n, c)

/-- The lowest-numbered member whose enable is 0 (R68, condition 4). -/
def State.memberOff (s : State) (b : BondId) : Option Lane :=
  (s.bonds.get b).cfg.memberList.find? fun n => !(s.lanes.get n).enable

/-- Condition 3 of R68: the spare that is in the member set. -/
def BondConfig.spareMember (cfg : BondConfig) : Option Lane := cfg.spare.filter cfg.isMember

/-- A refused START: its reason and details. -/
structure StartRefusal where
  reason : StartReason
  lane : Option Lane
  other : Option BondId
  field : Option RangeField
  deriving DecidableEq, Repr

/-- Conditions 5 to 7 of R68; 5 and 6 are skipped in LEARN mode. -/
def BondConfig.startProfile (cfg : BondConfig) : Option StartRefusal :=
  if cfg.matchMode = .exact ∧ cfg.expShape.lanes ≠ cfg.memberList.length then
    some ⟨.countMismatch, none, none, none⟩
  else if cfg.matchMode = .exact ∧ cfg.expShape.usable = false then some ⟨.profileUnusable, none, none, none⟩
  else cfg.rangeFailure.map fun f => ⟨.timingRange, none, none, some f⟩

/-- The START configuration check (R68): the first condition that holds. -/
def State.startCheck (s : State) (b : BondId) : Option StartRefusal :=
  let cfg := (s.bonds.get b).cfg
  if cfg.members = 0 then some ⟨.noMembers, none, none, none⟩
  else
    match s.laneTaken b with
    | some (n, c) => some ⟨.laneTaken, some n, some c, none⟩
    | none =>
      match cfg.spareMember with
      | some n => some ⟨.spareIsMember, some n, none, none⟩
      | none =>
        match s.memberOff b with
        | some n => some ⟨.memberOff, some n, none, none⟩
        | none => cfg.startProfile

/-! ## The commands -/

/-- The last command result of a command taken in state `st` (R66). -/
def CmdResult.record (r : CmdResult) (c : Command) (k : ResultKind) (st : BondState) (why : Option StartRefusal) :
    CmdResult where
  command := some c
  result := some k
  stateAt := some st
  reason := why.map StartRefusal.reason
  lane := why.bind StartRefusal.lane
  other := why.bind StartRefusal.other
  field := why.bind StartRefusal.field
  seq := r.seq + 1

/-- A command writes its bond's last command result (R65, R66). -/
def writeResult (b : BondId) (c : Command) (k : ResultKind) (st : BondState) (why : Option StartRefusal)
    (s : State) : State :=
  s.modBond b fun bd => { bd with result := bd.result.record c k st why }

/-- What a START that passes sets before the entry to HOLDING: retrain and settle counts 0 (R67), held row absent
(R150). -/
def Bond.started (bd : Bond) : Bond :=
  { bd with retrain := 0, settle := 0, ra := { bd.ra with held := none } }

/-- START (R67, R68). -/
def takeStart (b : BondId) (s : State) : State :=
  let st := (s.bonds.get b).state
  if st = .disabled then
    match s.startCheck b with
    | some why => writeResult b .start .refusedConfig st (some why) s
    | none => writeResult b .start .done st none (enterHolding b (s.modBond b Bond.started))
  else writeResult b .start .refusedState st none s

/-- STOP (R69). -/
def takeStop (b : BondId) (s : State) : State :=
  let st := (s.bonds.get b).state
  writeResult b .stop .done st none (if st = .disabled then s else enterDisabled b s)

/-- RETRAIN (R70). -/
def takeRetrain (b : BondId) (s : State) : State :=
  let st := (s.bonds.get b).state
  if st = .disabled then writeResult b .retrain .refusedState st none s
  else
    writeResult b .retrain .done st none
      (enterHolding b (s.modBond b fun bd => { bd with retrain := 0, settle := 0 }))

/-- CLEAR_FAULT (R71). -/
def takeClearFault (b : BondId) (s : State) : State :=
  writeResult b .clearFault .done (s.bonds.get b).state none
    (s.modBond b fun bd => { bd with fault := none, faultCount := 0 })

/-- The five counters of a bond at 0 (R72). -/
def Bond.countersCleared (bd : Bond) : Bond :=
  { bd with
    mends := 0, epochDrifts := 0
    ra := { bd.ra with sweeps := 0, fillSweeps := 0, taintedRows := 0 } }

/-- CLEAR_COUNTERS (R72). -/
def takeClearCounters (b : BondId) (s : State) : State :=
  writeResult b .clearCounters .done (s.bonds.get b).state none (s.modBond b Bond.countersCleared)

/-- A write of a bond's command word; a value that names no command raises PORT_ERROR (R65, R182). -/
def writeCommand (b : BondId) (v : Word) (s : State) : State :=
  match v.toNat with
  | 1 => takeStart b s
  | 2 => takeStop b s
  | 3 => takeRetrain b s
  | 4 => takeClearFault b s
  | 5 => takeClearCounters b s
  | _ => s.raiseGlobal .portError

end Sys2Proof.Machine
end

