-- ==== Sys2Proof/Machine/Buffers.lean ====
section
/-! DEFINITION. The elastic buffer write side, start marks and the release unit's measurement, and the seat of a joining
lane (06_elastic_buffers_and_release.md R98 to R110, 07_mending.md R131 to R134). -/

namespace Sys2Proof.Machine

/-! ## Start marks and skew -/

/-- Whether the start mark of every logical index below L is present (R109). -/
def ReleaseUnit.allArrived (r : ReleaseUnit) (l : Nat) : Bool :=
  (indicesBelow l).all fun i => (r.arrivals.get i).isSome

/-- The arrival offset of a logical index: its arrival less the earliest, modulo 2^32 (R109). -/
def ReleaseUnit.offsetOf (r : ReleaseUnit) (earliest : Word32) (i : Index) : Word32 :=
  (r.arrivals.get i).getD earliest - earliest

/-- The largest arrival offset among the logical indices below L (R109). -/
def ReleaseUnit.maxOffset (r : ReleaseUnit) (earliest : Word32) (l : Nat) : Nat :=
  (indicesBelow l).foldl (fun m i => max m (r.offsetOf earliest i).toNat) 0

/-- The arrival offsets written into the bond (R109). -/
def ReleaseUnit.offsets (r : ReleaseUnit) (earliest : Word32) (l : Nat) : Eight (Option Int) :=
  Eight.ofFn fun i => if i.val < l then some ((r.offsetOf earliest i).toNat : Int) else none

/-- A start mark's arrival recorded under a logical index; the first one taken is the earliest (R109). -/
def ReleaseUnit.recordArrival (r : ReleaseUnit) (i : Index) (t : Word32) : ReleaseUnit :=
  { r with arrivals := r.arrivals.set i (some t), earliest := some (r.earliest.getD t) }

/-- A release unit that goes on from MARK_WAIT with the skew within the limit (R109, R110). -/
def ReleaseUnit.aligned (r : ReleaseUnit) (cfg : BondConfig) (earliest : Word32) (skew : Nat) : ReleaseUnit :=
  match cfg.releaseMode with
  | .free =>
    { r with
      state := .countdown
      instant := some (earliest + BitVec.ofNat 32 skew + cfg.releaseDelay.setWidth 32
        + BitVec.ofNat 32 Config.releaseMargin) }
  | .timed => { r with state := .epochWait }

/-- Every start mark is present: offsets and skew are computed, and SKEW is reported or the release unit goes on
(R109). -/
def measureSkew (b : BondId) (earliest : Word32) (late : Bool) (s : State) : State :=
  let bd := s.bonds.get b
  let skew := bd.rel.maxOffset earliest bd.laneCount
  let s := s.modBond b fun bd =>
    { bd with
      offsets := bd.rel.offsets earliest bd.laneCount
      rel := { bd.rel with skew := some (BitVec.ofNat 32 skew) } }
  if bd.cfg.skewLimit.toNat < skew then
    let worst := (indicesBelow bd.laneCount).find? fun i => (bd.rel.offsetOf earliest i).toNat == skew
    s.tell b (.skew (worst.bind bd.laneOf) skew) late
  else s.modBond b fun bd => { bd with rel := bd.rel.aligned bd.cfg earliest skew }

/-- Whether `t` lies more than 1024 unit times after the earliest start mark: more than a buffer holds, of entries that
the earliest member has written one in each unit time (R105). -/
def ReleaseUnit.pastDepth (r : ReleaseUnit) (t : Word32) : Bool :=
  r.earliest.any fun e => decide (Config.bufferDepth < (t - e).toNat)

/-- Whether a start mark at `t` comes more than 1024 unit times after the earliest: its member has overflowed by then, or
has lost its lock (R105, R158). -/
def ReleaseUnit.overdue (r : ReleaseUnit) (t : Word32) : Bool := r.state == .markWait && r.pastDepth t

/-- A start-mark report reaches the release unit (R109). What is on its way to the bond has arrived 1024 unit times after
the earliest start mark: a later one meets a bond that has taken the OVERFLOW of the earliest member (R158; DESIGN CHOICE,
log 1). -/
def takeStartMark (b : BondId) (n : Lane) (t : Word32) (late : Bool) (s : State) : State :=
  let s := if (s.bonds.get b).rel.overdue t then takeInFlight b s else s
  let bd := s.bonds.get b
  match bd.rel.state, bd.indexOf n with
  | .markWait, some i =>
    let rel := bd.rel.recordArrival i t
    let s := s.modBond b fun bd => { bd with rel := rel }
    if rel.allArrived bd.laneCount then measureSkew b (rel.earliest.getD t) late s else s
  | _, _ => s

/-! ## The seat of a joining lane -/

/-- The reference's occupancy at a read at phase 1: release instant less its start-mark arrival (R133). -/
def Bond.refOccupancy (bd : Bond) (ref : Index) : Word32 :=
  bd.rel.instant.getD 0 - (bd.rel.arrivals.get ref).getD 0

/-- How far the seat mark at `t` lies behind the latest reference mark at or before it (R132), with L of 2 or more and
the reference lane's latest mark: a reference MARK of the unit time after `t` was taken before the seat mark, and the
reference mark before it counts. Where the reference lane's marks have ended, its report or lock-lost notice still on its
way, R132 says nothing of `t`: its sweeps are counted on from the latest mark, S + 1 unit times each, which keeps the seat
offset within S / 2 (R158; DESIGN CHOICE, log 35). -/
def behindReference (t latest : Word32) (sweep : Nat) : Nat :=
  if latest = t + 1 then sweep else (t - latest).toNat % (sweep + 1)

/-- The same with L of 1: reference marks lie O_ref − 1 unit times before each gap slot, and the present unit time, of
phase `phase`, is `t` + 1 (R132). -/
def behindSchedule (oref phase sweep : Nat) : Nat :=
  (((phase : Int) + oref - 2) % ((sweep : Int) + 1)).toNat

/-- The seat offset of a distance behind the reference mark (R132). -/
def seatOffsetOf (e sweep : Nat) : Int := if e ≤ sweep / 2 then (e : Int) else (e : Int) - (sweep + 1)

/-- The distance of a seat mark behind its reference mark (R132); none while no reference mark is known (log 16). -/
def State.behind (s : State) (b : BondId) (m : MendRec) (t : Word32) : Option Nat :=
  let bd := s.bonds.get b
  match bd.profile with
  | none => none
  | some p =>
    match m.reference with
    | some refLane => (s.bufs.get refLane).latestMark.map fun latest => behindReference t latest p.shape.sweep
    | none => some (behindSchedule (bd.refOccupancy 0).toNat bd.rd.phase p.shape.sweep)

/-- The seat condition (R133); a join slot that has been read in this very unit time counts as failed (R134). -/
def Bond.seatFits (bd : Bond) (oref : Nat) (d : Int) : Bool :=
  d.natAbs ≤ bd.cfg.skewLimit.toNat && decide (0 < (oref : Int) - d)
    && decide ((oref : Int) - d ≤ Config.maxSeatOccupancy)
    && !(decide ((oref : Int) - d = 1) && bd.rd.slotTaken)

/-- The join slot: the seat mark's arrival less d plus O_ref, modulo 2^32 (R134). -/
def joinSlot (t : Word32) (d : Int) (oref : Word32) : Word32 := t - BitVec.ofInt 32 d + oref

/-- The buffer of a lane whose write side opens with a mark at `t` and its first unit (R101, R134). -/
def Buffer.openWith (bf : Buffer) (t : Word32) (u : Word) : Buffer :=
  { bf with entries := [.unit u false], side := .opened, sweepCount := 1, latestMark := some t }

/-- A seat mark is taken: the offset is written, and the seat begins or MEND_SEAT is taken (R132 to R134). -/
def takeSeatMark (b : BondId) (m : MendRec) (t : Word32) (u : Word) (s : State) : State :=
  let bd := s.bonds.get b
  match s.behind b m t, bd.profile with
  | some e, some p =>
    let d := seatOffsetOf e p.shape.sweep
    let oref := bd.refOccupancy (bd.refIndex m.k)
    let s := s.modBond b fun bd => bd.modMend fun m => { m with offset := some d }
    if bd.seatFits oref.toNat d then
      (s.modBond b fun bd => { bd with seat := some (joinSlot t d oref) }).modBuf m.joining fun bf =>
        bf.openWith t u
    else takeFault b .mendSeat (some m.joining) (some m.k) (some (.seatOffset d)) s
  | _, _ => s

/-- A candidate mark that the bond takes: a seat mark when the mend is in SEAT, no seat has begun and the line word is
RESUME(k) (R131, R127). -/
def bondTakesCandidate (b : BondId) (n : Lane) (t : Word32) (u : Word) (s : State) : State :=
  let bd := s.bonds.get b
  match bd.state, bd.mend with
  | .mending, some m =>
    if m.joining = n ∧ m.phase = .seat ∧ bd.seat = none ∧ bd.lineKind = .resume ∧ bd.lineIndex = m.k then
      takeSeatMark b m t u s
    else s
  | _, _ => s

/-- Whether a lane is the joining lane of a mend in phase SEAT, the one whose write side reports candidate marks (R131). -/
def Bond.awaitsMarkOf (bd : Bond) (n : Lane) : Bool :=
  bd.state == .mending && bd.mend.any fun m => m.joining == n && m.phase == .seat

/-- The joining lane's candidate mark is reported to the bond, which takes it in the unit time of its DATA symbol (R131),
after what the same write side has sent before it (R75). No other CLOSED write side reports any. -/
def reportCandidate (b : BondId) (n : Lane) (t : Word32) (u : Word) (s : State) : State :=
  if (s.bonds.get b).awaitsMarkOf n then bondTakesCandidate b n t u (takeFrom b (.writeSide n) s) else s

/-! ## The write side -/

/-- What a write side in OPEN does with a symbol classified in LOCKED (R102 to R105). -/
inductive WriteAction where
  | write (e : BufEntry)
  | slip
  deriving DecidableEq, Repr

/-- The table of R102. -/
def writeAction (cls : SymbolClass) (count sweep : Nat) : WriteAction :=
  if count < sweep then
    match cls with
    | .data u => .write (.unit u false)
    | .inverted | .invalid => .write (.unit 0 true)
    | .mark | .idle | .head => .slip
  else
    match cls with
    | .mark => .write .mark
    | .data _ | .inverted | .invalid | .idle | .head => .slip

/-- One entry written: the sweep count and the latest mark follow (R102, R132). Whether a MARK that is a MARK_SLIP counts as
a reference mark is open: the latest mark is one that was written (DESIGN CHOICE, log 34). -/
def Buffer.push (bf : Buffer) (e : BufEntry) (now : Word32) : Buffer :=
  match e with
  | .unit _ _ => { bf with entries := bf.entries ++ [e], sweepCount := bf.sweepCount + 1 }
  | .mark => { bf with entries := bf.entries ++ [e], sweepCount := 0, latestMark := some now }

/-- The write side closes on MARK_SLIP or OVERFLOW, or on a symbol classified in SEEKING, and the read side withdraws
the lane (R104, R105, R106). -/
def closeAndWithdraw (n : Lane) (s : State) : State := (s.modBuf n Buffer.close).withdraw n

/-- A write side in OPEN takes a symbol classified in LOCKED (R102 to R105). -/
def writeOpen (n : Lane) (cls : SymbolClass) (sweep : Nat) (late : Bool) (s : State) : State :=
  match writeAction cls (s.bufs.get n).sweepCount sweep with
  | .slip => (closeAndWithdraw n s).tellOwner n (.markSlip n) late
  | .write e =>
    if (s.bufs.get n).entries.length < Config.bufferDepth then s.modBuf n fun bf => bf.push e s.timestamp
    else (closeAndWithdraw n s).tellOwner n (.overflow n) late

/-- S of the active profile of the lane's owning bond (R102). -/
def State.ownerSweep (s : State) (n : Lane) : Option Nat :=
  (s.owner n).bind fun b => (s.bonds.get b).profile.map fun p => p.shape.sweep

/-- Whether the GO indication of the lane's owning bond reads yes (R101). -/
def State.ownerGo (s : State) (n : Lane) : Bool :=
  match s.owner n with
  | some b => (s.bonds.get b).rel.go
  | none => false

/-- The mark memory after a symbol (R101, R106). -/
def markMemoryAfter (cls : SymbolClass) (locked : Bool) (now : Word32) : Option Word32 :=
  if cls = .mark ∧ locked = true then some now else none

/-- The write side's own action on a symbol, by its state and the mark memory before the symbol (R99, R101, R106,
R131). A start mark and a candidate mark are taken in the unit time of their DATA symbol (R131, R134). -/
def writeAct (n : Lane) (cls : SymbolClass) (locked : Bool) (memory : Option Word32) (late : Bool) (s : State) :
    State :=
  match (s.bufs.get n).side with
  | .closed =>
    match cls, memory, locked with
    | .data u, some t, true => s.toOwner n fun b => reportCandidate b n t u
    | _, _, _ => s
  | .watching =>
    match cls, memory, locked with
    | .data u, some t, true =>
      if s.ownerGo n then
        (s.modBuf n fun bf => bf.openWith t u).toOwner n fun b => takeStartMark b n t late
      else s
    | _, _, _ => s
  | .opened =>
    if locked then
      match s.ownerSweep n with
      | some sweep => writeOpen n cls sweep late s
      | none => s
    else closeAndWithdraw n s

/-- The buffer write side takes a classified symbol (R99 to R106, R131). -/
def writeTake (n : Lane) (cls : SymbolClass) (locked late : Bool) (s : State) : State :=
  let memory := (s.bufs.get n).markMemory
  writeAct n cls locked memory late
    (s.modBuf n fun bf => { bf with markMemory := markMemoryAfter cls locked s.timestamp })

/-- The buffer unit takes a lane-down notice that enters OFF: the buffer is cleared and the lane withdrawn (R106,
R121). -/
def bufLaneOff (n : Lane) (s : State) : State := (s.modBuf n Buffer.clear).withdraw n

end Sys2Proof.Machine
end

