-- ==== Sys2Proof/Machine/ReadSides.lean ====
section
/-! DEFINITION. The read side, reassembly and the stream output row, the release, the completion of a seat, and epoch
events (06_elastic_buffers_and_release.md R111 to R120, 07_mending.md R136, 08_reassembly_and_stream_outputs.md). -/

namespace Sys2Proof.Machine

/-! ## Read lanes -/

/-- The logical index being mended, while the bond is MENDING (R114, R118). -/
def Bond.mendedIndex (bd : Bond) : Option Index :=
  match bd.state with
  | .mending => bd.mend.map MendRec.k
  | .disabled | .holding | .calling | .aligning | .running | .halted => none

/-- The read lane of a logical index: its lane by the lane order map, unless it is withdrawn or being mended (R114). -/
def Bond.readLane (bd : Bond) (i : Index) : Option Lane :=
  if bd.mendedIndex = some i then none
  else (bd.laneOf i).bind fun n => if bd.rd.withdrawn.getLsbD n.val then none else some n

/-- The read lanes of a bond, by logical index (R114). -/
def Bond.readLanes (bd : Bond) (l : Nat) : List Lane := (indicesBelow l).filterMap bd.readLane

/-- The read lanes whose buffer is empty, by logical index: the UNDERFLOW reports of a slot, in order (R117). -/
def State.underflows (s : State) (b : BondId) (l : Nat) : List Lane :=
  ((s.bonds.get b).readLanes l).filter fun n => (s.bufs.get n).entries.isEmpty

/-- The head entry of every read lane's buffer removed (R114). -/
def State.popReadLanes (s : State) (b : BondId) (l : Nat) : State :=
  let lanes := (s.bonds.get b).readLanes l
  { s with bufs := s.bufs.mapIdx fun n bf => if lanes.contains n then { bf with entries := bf.entries.tail } else bf }

/-- What a read slot hands for one logical index: a read lane's head unit, else a tainted unit of value 0 (R114, R117).
A mark entry at a read slot is no state of the part (R114); it is handed as a tainted unit of value 0 (log 16). -/
def State.handed (s : State) (b : BondId) (i : Index) : Word × Bool :=
  match (s.bonds.get b).readLane i with
  | none => (0, true)
  | some n =>
    match (s.bufs.get n).entries with
    | .unit v t :: _ => (v, t)
    | .mark :: _ => (0, true)
    | [] => (0, true)

/-- The row a read slot hands to reassembly (R114, R143). -/
def State.handedRow (s : State) (b : BondId) (l : Nat) : List (Word × Bool) := (indicesBelow l).map (s.handed b)

/-! ## Reassembly -/

/-- The standing set at a sweep's first read slot (R145). -/
def Bond.openStanding (bd : Bond) (j : Nat) : Standing :=
  if j = 0 then (if bd.countsRunning then .clean else .spoiled) else bd.ra.standing

/-- The standing after the slot's own row: a tainted row under FILL_REST cuts a CLEAN sweep (R148). -/
def Bond.judgedStanding (bd : Bond) (j : Nat) (tainted : Bool) : Standing :=
  match bd.openStanding j with
  | .clean => if tainted = true ∧ bd.cfg.taintPolicy = .fillRest then .filling else .clean
  | .filling => .filling
  | .spoiled => .spoiled

/-- The units of a VALID row: a tainted position carries the fill value (R147). -/
def BondConfig.validUnits (cfg : BondConfig) (row : List (Word × Bool)) : List Word :=
  row.map fun u => if u.2 then cfg.fillValue else u.1

/-- The units of an invalid row: the fill value, or the held row under HOLD (R149, R150). -/
def Bond.fillUnits (bd : Bond) (l : Nat) : List Word :=
  match bd.cfg.fillMode, bd.ra.held with
  | .hold, some units => units
  | _, _ => List.replicate l bd.cfg.fillValue

/-- The eight unit positions of the port: positions from L up carry 0 (R142). -/
def padUnits (units : List Word) : List Word := (units ++ List.replicate 8 0).take 8

/-- The start channel of row j (R144). -/
def startChannel (sh : Shape) (j : Nat) : BitVec 4 := BitVec.ofNat 4 ((j * sh.lanes) % sh.channels)

/-- A row handed at data position j is judged and presented (R143 to R150), and counted when it is tainted in a sweep
that is not SPOILED (R155). -/
def Bond.presentRow (bd : Bond) (sh : Shape) (j : Nat) (row : List (Word × Bool)) : Bond :=
  let tainted := row.any Prod.snd
  let standing := bd.judgedStanding j tainted
  let valid := standing == .clean
  let units := if valid then bd.cfg.validUnits row else bd.fillUnits sh.lanes
  { bd with ra := { bd.ra with
      standing := standing
      held := if valid then some units else bd.ra.held
      taintedRows := if tainted && standing != .spoiled then satInc bd.ra.taintedRows else bd.ra.taintedRows
      validRows := (j != 0 && bd.ra.validRows) || valid
      presented := some ⟨padUnits units, valid, j == 0, valid && tainted, startChannel sh j⟩ } }

/-- A row of a sweep that the read side completes: invalid, read from no buffer (R118, R149, R150). -/
def Bond.presentFill (bd : Bond) (sh : Shape) (j : Nat) : Bond :=
  { bd with ra := { bd.ra with
      presented := some ⟨padUnits (bd.fillUnits sh.lanes), false, j == 0, false, startChannel sh j⟩ } }

/-- Reassembly takes a sweep-completed notice (R154). -/
def Bond.countSweep (bd : Bond) : Bond :=
  { bd with ra := { bd.ra with
      sweeps := bd.ra.sweeps + 1
      fillSweeps := if bd.ra.validRows then bd.ra.fillSweeps else satInc bd.ra.fillSweeps } }

/-! ## The slots -/

/-- The slot is read; the lanes that underflowed are withdrawn (R117). -/
def Bond.slotDone (bd : Bond) (under : List Lane) : Bond :=
  { bd with rd := { bd.rd with
      slotTaken := true
      withdrawn := under.foldl (fun w n => w ||| BitVec.twoPow 8 n.val) bd.rd.withdrawn } }

/-- The UNDERFLOW reports of one slot, in logical order (log 19). -/
def reportUnderflows (b : BondId) (under : List Lane) (late : Bool) (s : State) : State :=
  under.foldl (fun s n => s.tell b (.underflow n) late) s

/-- A gap slot in READING: a mark entry leaves each read lane's buffer, and no row is presented (R114, R142). -/
def gapSlot (b : BondId) (sh : Shape) (late : Bool) (s : State) : State :=
  let under := s.underflows b sh.lanes
  let s := (s.popReadLanes b sh.lanes).modBond b fun bd =>
    { bd.slotDone under with ra := { bd.ra with presented := none } }
  reportUnderflows b under late s

/-- Whether every read slot of the sweep up to this one was read while the bond is RUNNING (R115). -/
def Bond.wholeAt (bd : Bond) (j : Nat) : Bool := (j == 0 || bd.rd.whole) && bd.countsRunning

/-- A read slot of data position j in READING (R114 to R117, R143 to R151). At the last one the sweep-completed notice
and the UNDERFLOW reports of the slot are sent in the order `reportFirst` says (log 7). -/
def rowSlot (b : BondId) (sh : Shape) (j : Nat) (reportFirst late : Bool) (s : State) : State :=
  let under := s.underflows b sh.lanes
  let row := s.handedRow b sh.lanes
  let whole := (s.bonds.get b).wholeAt j
  let s := (s.popReadLanes b sh.lanes).modBond b fun bd =>
    let bd := (bd.presentRow sh j row).slotDone under
    { bd with rd := { bd.rd with whole := whole } }
  if j + 1 = sh.sweep then
    let s := s.modBond b Bond.countSweep
    if reportFirst then (reportUnderflows b under late s).tell b (.sweepCompleted whole) late
    else reportUnderflows b under late (s.tell b (.sweepCompleted whole) late)
  else reportUnderflows b under late s

/-- What a read slot of data position j in COMPLETING does to the bond's read side and reassembly (R118). The read side
keeps its slot timing to the end of the sweep: it is COMPLETING, and the port STREAMING, in the whole unit time of the
last row (R142), and goes to IDLE as the next one begins (log 17). -/
def Bond.completingSlot (bd : Bond) (sh : Shape) (j : Nat) : Bond :=
  let bd := bd.presentFill sh j
  let bd := if j + 1 = sh.sweep then bd.countSweep else bd
  { bd with rd := { bd.rd with slotTaken := true } }

/-- A read slot of data position j in COMPLETING (R118); at the last one the sweep-completed notice is sent, with whole no
(R115). -/
def fillSlot (b : BondId) (sh : Shape) (j : Nat) (late : Bool) (s : State) : State :=
  let s := s.modBond b fun bd => bd.completingSlot sh j
  if j + 1 = sh.sweep then s.tell b (.sweepCompleted false) late else s

/-- The slot of the present phase: phase 0 is the gap slot, phase j + 1 the read slot of data position j (R113). -/
def readSlotNow (b : BondId) (reportFirst late : Bool) (s : State) : State :=
  let bd := s.bonds.get b
  match bd.ra.runShape with
  | none => s
  | some sh =>
    match bd.rd.state with
    | .idle => s
    | .reading => if bd.rd.phase = 0 then gapSlot b sh late s else rowSlot b sh (bd.rd.phase - 1) reportFirst late s
    | .completing => if bd.rd.phase = 0 then s else fillSlot b sh (bd.rd.phase - 1) late s

/-! ## The completion of a seat -/

/-- Whether a seat in progress has reached its join slot (R134, R136, R193). -/
def State.seatDue (s : State) (b : BondId) : Bool :=
  let bd := s.bonds.get b
  bd.state == .mending && bd.seat == some s.timestamp && bd.rd.state == .reading && !bd.rd.slotTaken

/-- The member set after a MOVE seat (R64). -/
def BondConfig.replaceMember (cfg : BondConfig) (out new : Lane) : BondConfig :=
  { cfg with
    members := (cfg.members &&& ~~~(BitVec.twoPow 8 out.val)) ||| BitVec.twoPow 8 new.val
    spare := none }

/-- Whether a notice or report has an effect on a bond in MENDING (R128, R135, R137, R138). -/
def Notice.actsInMend (cfg : BondConfig) (m : MendRec) : Notice → Bool
  | .lockLost n cause => cause == .reference && cfg.names n || n == m.joining || n != m.trigger && cfg.isMember n
  | .entryStatus n _ => n == m.joining
  | .markSlip n => n == m.joining || n != m.trigger && cfg.isMember n
  | .underflow n => n != m.trigger && n != m.joining && cfg.isMember n
  | .lockGained _ | .overflow _ | .skew _ _ | .released | .sweepCompleted _ | .epochDrift => false

/-- What the completion of a seat does to the bond (R136, R64, R88): MOVE rewrites the map, the member set and the
spare; the offset and arrival of k follow the reference; the joining lane is a read lane again (R117). What is on its way
to the bond and has no effect in MENDING has arrived there by then: the notice of a sweep read before the seat is not
counted after it (R90, R138; DESIGN CHOICE, log 1). -/
def Bond.seated (bd : Bond) (m : MendRec) : Bond :=
  let ref := bd.refIndex m.k
  let d := m.offset.getD 0
  { bd with
    cfg := if m.method = .move then bd.cfg.replaceMember m.trigger m.joining else bd.cfg
    map := if m.method = .move then bd.map.map fun mp => mp.set m.k (some m.joining) else bd.map
    offsets := bd.offsets.set m.k ((bd.offsets.get ref).map fun o => o + d)
    rel := { bd.rel with
      arrivals := bd.rel.arrivals.set m.k ((bd.rel.arrivals.get ref).map fun t => t + BitVec.ofInt 32 d) }
    rd := { bd.rd with withdrawn := bd.rd.withdrawn &&& ~~~(BitVec.twoPow 8 m.joining.val) }
    mend := some { m with outcome := .joined }
    seat := none
    inFlight := bd.inFlight.filter (Notice.actsInMend bd.cfg m)
    mends := satInc bd.mends
    mendTimer := .stopped
    state := .running }

/-- A seat completes: MEND_DONE and RUNNING_ENTERED are raised (R136). -/
def completeSeat (b : BondId) (s : State) : State :=
  match (s.bonds.get b).mend with
  | some m => ((s.modBond b fun bd => bd.seated m).raiseBond b .mendDone).raiseBond b .runningEntered
  | none => s

/-- The slot of this unit time, with the completion of a seat whose join slot it is before its read (R136). -/
def takeSlot (b : BondId) (reportFirst late : Bool) (s : State) : State :=
  if (s.bonds.get b).rd.slotTaken then s
  else readSlotNow b reportFirst late (if s.seatDue b then completeSeat b s else s)

/-! ## The release -/

/-- Whether a bond has come to its release (R112): the counter has reached the release instant, or a release postponed
behind a COMPLETING sweep finds that sweep's last read slot in the unit time before (log 17). -/
def State.releaseReached (s : State) (b : BondId) : Bool :=
  let bd := s.bonds.get b
  bd.state == .aligning && bd.rel.state == .countdown &&
    match bd.rd.state with
    | .idle => bd.rel.instant == some s.timestamp
    | .completing => bd.rel.postponed && bd.rd.phase == 0
    | .reading => false

/-- Whether the release of a bond is due: no release is taken with E above 1024, for the earliest member overflows by then
(R105, R111, R194). At E = 1025 its 1025th entry, of the same unit time, goes first (DEDUCED, log 36). -/
def State.releaseDue (s : State) (b : BondId) : Bool :=
  s.releaseReached b && !(s.bonds.get b).rel.pastDepth s.timestamp

/-- The release epoch phase (R119): S + 1 less the remainder, by S + 1, of the release instant less the epoch's instant
less 1; modulo S + 1. -/
def releasePhaseOf (release epoch : Word32) (sweep : Nat) : Nat :=
  (sweep + 1 - (release - epoch - 1).toNat % (sweep + 1)) % (sweep + 1)

/-- What a release does: the release unit is RELEASED and the release instant is the present unit time (R112), the run
shape is taken (R141), and the read side reads from phase 1 with no lane withdrawn (R113). -/
def Bond.released (bd : Bond) (p : Profile) (now : Word32) : Bond :=
  { bd with
    rel := { bd.rel with
      state := .released
      instant := some now
      postponed := false
      releasePhase := bd.rel.epochInstant.map fun e => releasePhaseOf now e p.shape.sweep }
    rd := { bd.rd with state := .reading, phase := 1, withdrawn := 0, whole := false, slotTaken := false }
    ra := { bd.ra with runShape := some p.shape } }

/-- What is on its way to a bond has arrived as it comes to its release more than 1024 unit times after the earliest start
mark: the OVERFLOW of the earliest member, or the notice of its lost lock, is a fault in ALIGNING, and no release follows
(R105, R194; DESIGN CHOICE, log 1). -/
def takeBeforeRelease (b : BondId) (s : State) : State :=
  if s.releaseReached b && (s.bonds.get b).rel.pastDepth s.timestamp then takeInFlight b s else s

/-- A release that is due: the release report is sent to the bond (R112, R88), and the read slot of data position 0 is in
the same unit time (R114). -/
def takeRelease (b : BondId) (late : Bool) (s : State) : State :=
  let s := takeBeforeRelease b s
  match (s.bonds.get b).profile with
  | some p =>
    if s.releaseDue b then
      takeSlot b false late ((s.modBond b fun bd => bd.released p s.timestamp).tell b .released late)
    else s
  | none => s

/-! ## Epoch events -/

/-- The circular distance of two phases (R120). -/
def phaseDistance (p q sweep : Nat) : Nat :=
  let d := max p q - min p q
  min d (sweep + 1 - d)

/-- An epoch event compared for drift in RUNNING, and a drift reported to the bond (R120). -/
def compareEpoch (b : BondId) (late : Bool) (s : State) : State :=
  let bd := s.bonds.get b
  let p := bd.rd.phase
  let s' := s.modBond b fun bd => { bd with rel := { bd.rel with lastPhase := some p } }
  match bd.rel.releasePhase with
  | none => s'
  | some q =>
    if bd.cfg.epochTolerance.toNat < phaseDistance p q bd.runSweep then
      ((s'.modBond b fun bd => { bd with epochDrifts := satInc bd.epochDrifts }).raiseBond b .epochDrift).tell b
        .epochDrift late
    else s'

/-- An epoch event that fixes the release instant (R111). -/
def ReleaseUnit.fixByEpoch (r : ReleaseUnit) (cfg : BondConfig) (now : Word32) : ReleaseUnit :=
  { r with
    state := .countdown
    epochInstant := some now
    instant := some (now + cfg.releaseDelay.setWidth 32 + BitVec.ofNat 32 Config.releaseMargin) }

/-- One release unit takes an epoch event (R110, R111, R120). -/
def releaseUnitTakesEpoch (b : BondId) (late : Bool) (s : State) : State :=
  let bd := s.bonds.get b
  match bd.cfg.releaseMode with
  | .free => s
  | .timed =>
    match bd.rel.state with
    | .idle | .markWait | .countdown => s
    | .epochWait => s.modBond b fun bd => { bd with rel := bd.rel.fixByEpoch bd.cfg s.timestamp }
    | .released => if bd.state = .running then compareEpoch b late s else s

end Sys2Proof.Machine
end

