-- ==== Sys2Proof/Machine/RollCalls.lean ====
section
/-! DEFINITION. The roll-call unit: listening, the record assembler, the outcomes of a record and the entry's moves
(03_the_announcement_table.md, R5 to R9). -/

namespace Sys2Proof.Machine

/-- The outcome of a record (R43). -/
inductive RecordOutcome where
  | valid (r : Record)
  | checkFailure
  | malformed
  deriving DecidableEq, Repr

/-- The outcome of a complete record, in the order of R9: the sum, label_length, logical_index against lane_count. -/
def judgeRecord (rec : OpenRecord) : RecordOutcome :=
  let a := rec.words.getD 0 0
  let b := rec.words.getD 1 0
  let r := recordOfWords a b ((rec.words.drop 2).take (labelLength b))
  if rec.sum ≠ 0 then .checkFailure
  else if labelLength b = 7 then .malformed
  else if r.common.shape.lanes ≤ r.logicalIndex.toNat then .malformed
  else .valid r

/-- Whether a record with these words is complete: it has the length its word B gives (R5, R41). -/
def OpenRecord.complete (rec : OpenRecord) : Bool :=
  match rec.words with
  | _ :: b :: _ => recordLength b ≤ rec.words.length
  | _ => false

/-- The assembler's step on a symbol: the open record afterwards and the outcome of a record that ends (R5, R41). -/
def assemble (r : RollCall) (cls : SymbolClass) : Option OpenRecord × Option RecordOutcome :=
  match r.openRec with
  | some rec =>
    match cls with
    | .data u =>
      let rec' : OpenRecord := ⟨rec.words ++ [u], rec.sum + u⟩
      if rec'.complete then (none, some (judgeRecord rec')) else (some rec', none)
    | .idle | .mark | .head | .inverted | .invalid => (none, some .malformed)
  | none => if cls = .head ∧ r.listening = true ∧ r.prevMark = true then (some ⟨[], 0⟩, none) else (none, none)

/-- Whether a valid record is identical to the stored one, which it can be in SEEN and CONFIRMED alone (R44). -/
def Entry.matches (e : Entry) (r : Record) : Bool :=
  (e.status == .seen || e.status == .confirmed) && e.record == r

/-- A valid record meets an entry (R44 to R47). -/
def Entry.takeValid (e : Entry) (r : Record) (now : Word32) : Entry :=
  if e.matches r then
    let n := if e.repeats < Config.confirmCount then e.repeats + 1 else e.repeats
    { e with status := if n = Config.confirmCount then .confirmed else .seen, repeats := n, captured := now }
  else { e with status := .seen, repeats := 1, record := r, captured := now }

/-- An entry takes the outcome of a record (R45 to R49). -/
def Entry.takeOutcome (e : Entry) (o : RecordOutcome) (now : Word32) : Entry :=
  match o with
  | .valid r => e.takeValid r now
  | .checkFailure => { e with checkFailures := satInc e.checkFailures }
  | .malformed => { e with malformed := satInc e.malformed }

/-- The pending flag an outcome raises, by the entry as it stood (R45, R47, R48, R49, R55). -/
def Entry.outcomeFlag (e : Entry) (o : RecordOutcome) : Option LaneFlag :=
  match o with
  | .valid r =>
    if e.matches r then if e.status = .seen ∧ e.repeats + 1 = Config.confirmCount then some .announceConfirmed else none
    else if e.status = .confirmed then some .announceChanged
    else none
  | .checkFailure => some .announceBad
  | .malformed => some .announceBad

/-- The entry-status notice of a lane whose entry stood at `was` before an event: it carries the new status, and none is
sent where the status has not changed (R53). -/
def State.entryNotice (s : State) (n : Lane) (was : EntryStatus) (late : Bool) : State :=
  if (s.rolls.get n).entry.status = was then s
  else s.tellOwner n (.entryStatus n (s.rolls.get n).entry.status) late

/-- A pending flag of a lane is raised, if the outcome raises one (R55). -/
def State.raiseLaneFlag (s : State) (n : Lane) (f : Option LaneFlag) : State :=
  match f with
  | some f => s.raiseLane n f
  | none => s

/-- An outcome acts on the lane's entry, raises its flag, and sends a notice of a changed status (R43, R53). -/
def takeOutcome (n : Lane) (o : RecordOutcome) (late : Bool) (s : State) : State :=
  let e := (s.rolls.get n).entry
  let s' := s.modRoll n fun r => { r with entry := r.entry.takeOutcome o s.timestamp }
  (s'.raiseLaneFlag n (e.outcomeFlag o)).entryNotice n e.status late

/-- The roll-call unit takes a classified symbol (R40, R41). -/
def rollTake (n : Lane) (cls : SymbolClass) (late : Bool) (s : State) : State :=
  let a := assemble (s.rolls.get n) cls
  let s' := s.modRoll n fun r => { r with openRec := a.1, prevMark := cls == .mark }
  match a.2 with
  | some o => takeOutcome n o late s'
  | none => s'

/-- The roll-call unit takes a lock-gained notice (R40). -/
def RollCall.lockGained (r : RollCall) : RollCall := { r with listening := true }

/-- A SEEN or CONFIRMED entry becomes STALE (R50). -/
def Entry.lose (e : Entry) : Entry :=
  match e.status with
  | .seen | .confirmed => { e with status := .stale, repeats := 0 }
  | .empty | .stale => e

/-- The roll-call unit takes a lock-lost notice: listening ends, an open record is abandoned, the entry goes STALE
(R40, R42, R50). -/
def RollCall.lockLost (r : RollCall) : RollCall :=
  { r with listening := false, openRec := none, entry := r.entry.lose }

/-- The roll-call unit takes a lane's lock-lost notice, and sends STALE where the entry's status has changed (R50, R53). -/
def rollLockLost (n : Lane) (late : Bool) (s : State) : State :=
  (s.modRoll n RollCall.lockLost).entryNotice n (s.rolls.get n).entry.status late

/-- The lane's CLEAR_COUNTERS on its entry (R54). -/
def Entry.clearCounters (e : Entry) : Entry := { e with checkFailures := 0, malformed := 0 }

end Sys2Proof.Machine
end

