-- ==== Sys2Proof/Machine/Lanes.lean ====
section
/-! DEFINITION. The lane receivers, their notices, and the reference monitor
(02_lane_receivers_and_the_reference_monitor.md). -/

namespace Sys2Proof.Machine

/-! ## Notices -/

/-- A lock-lost notice goes to the roll-call unit and the owning bond (R30, R40, R50, R91). The bond takes it and the
STALE notice of the roll-call unit in either order: a STALE notice that goes second is one that stays on its way (R81;
log 1). Which of the two takes the lane's notice first is open (R30, R52): here it is the roll-call unit, so that the clear
of a REJOIN mend begun by the loss finds STALE (DESIGN CHOICE, log 32). -/
def noticeLockLost (n : Lane) (cause : LossCause) (late lateEntry : Bool) (s : State) : State :=
  (rollLockLost n lateEntry s).tellOwner n (.lockLost n cause) late

/-- A lock-gained notice goes to the roll-call unit and the owning bond (R30, R40, R79). -/
def noticeLockGained (n : Lane) (late : Bool) (s : State) : State :=
  (s.modRoll n RollCall.lockGained).tellOwner n (.lockGained n) late

/-- What a lane's change of state sends after it (R30): a lock-lost notice if it was LOCKED, and a lane-down notice to
the snapshot unit where it goes to ACQUIRING or OFF. -/
def lossNotices (n : Lane) (was : LaneMode) (cause : LossCause) (late lateEntry : Bool) (s : State) : State :=
  snapLaneDown n (if was = .locked then noticeLockLost n cause late lateEntry s else s)

/-! ## The acquisition timer -/

/-- The acquisition timer's limit in ticks (R17, R20). -/
def LaneRx.acqLimit (l : LaneRx) : Nat := l.acqTimeout.toNat * Config.acqTimeoutStep

/-- The acquisition timer from zero on an entry to ACQUIRING: running while the reference is PRESENT, else held at zero
(R19, R28, R35). -/
def LaneRx.startAcq (l : LaneRx) (present : Bool) : LaneRx :=
  { l with acqTimer := if present then .start l.acqLimit else .held 0 }

/-! ## Leaving and entering lane states -/

/-- Whether a departure is from LOCKED: it counts a lock loss (R26). -/
def LaneRx.countLoss (l : LaneRx) : LaneRx :=
  if l.mode = .locked then { l with lockLosses := satInc l.lockLosses } else l

/-- The runs and strikes at 0 (R18, R26). -/
def LaneRx.clearRuns (l : LaneRx) : LaneRx := { l with lockRun := 0, invRun := 0, strikes := 0, relief := 0 }

/-- A lane in SEEKING or LOCKED goes to ACQUIRING with a cause (R26, R28, R35). -/
def LaneRx.toAcquiring (l : LaneRx) (cause : LossCause) (present : Bool) : LaneRx :=
  { l.countLoss.clearRuns with mode := .acquiring, lastLoss := some cause }.startAcq present

/-- A LOCKED lane goes to SEEKING with cause STRIKES (R26, R27). -/
def LaneRx.struckOut (l : LaneRx) : LaneRx :=
  { l.countLoss.clearRuns with mode := .seeking, lastLoss := some .strikes }

/-- A lane that is not OFF goes to OFF; the cause DISABLED is recorded from LOCKED alone (R26, R29). -/
def LaneRx.toOff (l : LaneRx) : LaneRx :=
  { l.countLoss.clearRuns with
    mode := .off, acqTimer := .stopped
    lastLoss := if l.mode = .locked then some .disabled else l.lastLoss }

/-- A lane in OFF goes to ACQUIRING on its enable (R19). -/
def LaneRx.enabled (l : LaneRx) (present : Bool) : LaneRx :=
  { l.clearRuns with mode := .acquiring, polarity := l.cfgPolarity }.startAcq present

/-- The fields of a written configuration word; 0 in the timeout is stored as 1, and auto-polarity off sets the
inverted-idle run to 0 (R17, R24, lane block offset 0). -/
def LaneRx.configure (l : LaneRx) (v : Word) : LaneRx :=
  let auto := wordBit v 2
  { l with
    enable := wordBit v 0
    cfgPolarity := if wordBit v 1 then .inverted else .normal
    autoPolarity := auto
    acqTimeout := if wordField v 8 8 = 0 then 1 else wordField v 8 8
    invRun := if auto then l.invRun else 0 }

/-- LOCK_LOST is raised on a departure from LOCKED (R26). -/
def raiseLockLost (n : Lane) (was : LaneMode) (s : State) : State :=
  if was = .locked then s.raiseLane n .lockLost else s

/-- A lane that is not OFF goes to OFF (R29): the buffer is cleared (R121), the notices follow. -/
def disableLane (n : Lane) (late lateEntry : Bool) (s : State) : State :=
  let was := (s.lanes.get n).mode
  lossNotices n was .disabled late lateEntry (bufLaneOff n (raiseLockLost n was (s.modLane n LaneRx.toOff)))

/-- A write of a lane's configuration word (R17, R19, R24, R29). The lane-down notice of an enable carries no cause and
finds no request on an OFF lane in progress (R173, R177). -/
def writeLaneConfig (n : Lane) (v : Word) (late lateEntry : Bool) (s : State) : State :=
  let was := (s.lanes.get n).mode
  let s := s.modLane n fun l => l.configure v
  if wordBit v 0 then
    if was = .off then snapLaneDown n (s.modLane n fun l => l.enabled s.refmon.present) else s
  else if was = .off then s else disableLane n late lateEntry s

/-- The lane's CLEAR_COUNTERS (R32, R54). -/
def clearLaneCounters (n : Lane) (s : State) : State :=
  (s.modLane n fun l => { l with invalidSymbols := 0, lockLosses := 0, acqFailures := 0 }).modRoll n fun r =>
    { r with entry := r.entry.clearCounters }

/-- A write of a lane's control word: the value 1 alone names an action (R182). -/
def writeLaneControl (n : Lane) (v : Word) (s : State) : State :=
  if v = 1 then clearLaneCounters n s else s.raiseGlobal .portError

/-! ## Events of one lane -/

/-- The acquisition timer expires: it has counted to its limit (R20; log 3). -/
def acqExpire (n : Lane) (s : State) : State :=
  let l := s.lanes.get n
  if l.mode = .acquiring ∧ l.acqTimer.due = true then
    (s.modLane n fun l => { l with acqFailures := satInc l.acqFailures, acqTimer := .start l.acqLimit }).raiseLane n
      .acqFailed
  else s

/-- A frequency-lock event (R21). -/
def frequencyLock (n : Lane) (s : State) : State :=
  if (s.lanes.get n).mode = .acquiring ∧ s.refmon.present = true then
    s.modLane n fun l => { l with mode := .seeking, acqTimer := .stopped, lockRun := 0, invRun := 0 }
  else s

/-- A frequency-loss event (R28). -/
def frequencyLoss (n : Lane) (late lateEntry : Bool) (s : State) : State :=
  let was := (s.lanes.get n).mode
  if was.classifies then
    lossNotices n was .frequency late lateEntry
      (raiseLockLost n was (s.modLane n fun l => l.toAcquiring .frequency s.refmon.present))
  else s

/-- The lane's own fields after a symbol in SEEKING (R23, R24). -/
def LaneRx.seek (l : LaneRx) (cls : SymbolClass) : LaneRx :=
  let run := if cls.isValid then l.lockRun + 1 else 0
  let inv := if l.autoPolarity = true ∧ cls = .inverted then l.invRun + 1 else 0
  if run = Config.lockRunLength then
    { l with mode := .locked, lockRun := run, invRun := 0, strikes := 0, relief := 0 }
  else if inv = Config.invertedRunLength then
    { l with
      polarity := match l.polarity with | .normal => .inverted | .inverted => .normal
      lockRun := 0, invRun := 0 }
  else { l with lockRun := run, invRun := inv }

/-- A symbol in SEEKING: LOCK_GAINED or POLARITY_FLIPPED (R23, R24). What the receiver has on its way to a bond, the notice
of its last lock loss before all, has arrived as it locks (R92; log 1). -/
def seekSymbol (n : Lane) (cls : SymbolClass) (s : State) : State :=
  let l := s.lanes.get n
  let l' := l.seek cls
  if l'.mode = .locked then ((s.arrivedFrom (.receiver n)).modLane n fun l => l.seek cls).raiseLane n .lockGained
  else
    let s := s.modLane n fun l => l.seek cls
    if l'.polarity = l.polarity then s else s.raiseLane n .polarityFlipped

/-- The lane's own fields after a symbol in LOCKED, but for the end of the lock (R25). -/
def LaneRx.strike (l : LaneRx) (cls : SymbolClass) : LaneRx :=
  if cls.isValid then
    if l.relief + 1 = Config.reliefRunLength then { l with relief := 0, strikes := l.strikes - 1 }
    else { l with relief := l.relief + 1 }
  else { l with strikes := l.strikes + 1, relief := 0, invalidSymbols := satInc l.invalidSymbols }

/-- A symbol in LOCKED; the fourth strike ends the lock, with no lane-down notice (R25, R27, R30). -/
def lockedSymbol (n : Lane) (cls : SymbolClass) (s : State) : State :=
  let l' := (s.lanes.get n).strike cls
  if Config.strikeLimit ≤ l'.strikes then
    (s.modLane n fun l => (l.strike cls).struckOut).raiseLane n .lockLost
  else s.modLane n fun l => l.strike cls

/-- The lane receiver's own logic takes a symbol classified in `mode` (R22 to R27). -/
def laneTake (n : Lane) (cls : SymbolClass) (mode : LaneMode) (s : State) : State :=
  match mode with
  | .seeking => seekSymbol n cls s
  | .locked => lockedSymbol n cls s
  | .off | .acquiring => s

/-- The notice of the change that a symbol has made to a lane's state, which was `was` (R23, R27, R30). -/
def symbolNotice (n : Lane) (was : LaneMode) (late lateEntry : Bool) (s : State) : State :=
  match was, (s.lanes.get n).mode with
  | .seeking, .locked => noticeLockGained n late s
  | .locked, .seeking => noticeLockLost n .strikes late lateEntry s
  | _, _ => s

/-- A symbol of a lane that classifies, handed on to its four receivers (R22): the roll-call unit takes it before the
lane's notices (R40) and the snapshot unit too (R174). The lane's own state has changed before any bond takes a message
that the symbol gives rise to (R30, R97); the notice of that change and what the buffer write side does with the symbol
have no order between them (R22, R75; log 7). -/
def takeSymbol (n : Lane) (p : LinePattern) (h : Handing) (s : State) : State :=
  let l := s.lanes.get n
  let cls := classify l.polarity p
  let s := laneTake n cls l.mode (snapTake n cls (rollTake n cls h.lateEntry s))
  if h.noticeFirst then writeTake n cls (l.mode == .locked) h.lateReport (symbolNotice n l.mode h.lateNotice h.lateEntry s)
  else symbolNotice n l.mode h.lateNotice h.lateEntry (writeTake n cls (l.mode == .locked) h.lateReport s)

/-! ## The reference monitor -/

/-- A lane takes a reference-lost notice (R35). -/
def LaneRx.referenceLost (l : LaneRx) : LaneRx :=
  match l.mode with
  | .seeking | .locked => l.toAcquiring .reference false
  | .acquiring => { l with acqTimer := l.acqTimer.hold }
  | .off => l

/-- A lane takes a reference-restored notice (R36). -/
def LaneRx.referenceRestored (l : LaneRx) : LaneRx :=
  match l.mode with
  | .acquiring => l.startAcq true
  | .off | .seeking | .locked => l

/-- The lanes in the order in which their notices are taken: those named first, then the rest in number order (log 7). -/
def laneOrder (order : List Lane) : List Lane :=
  order.eraseDups ++ allLanes.filter fun n => !order.contains n

/-- LOCK_LOST of every lane that was LOCKED (R26). -/
def raiseLostLanes (was : Eight LaneRx) (s : State) : State :=
  { s with irq := { s.irq with lanePending := s.irq.lanePending.mapIdx fun n f =>
      if (was.get n).mode = .locked then setFlag f LaneFlag.lockLost.pos else f } }

/-- The declaration of ABSENT (R33, R35): every lane takes its reference-lost notice before any block takes a lane's
notice, for one loss costs a bond one fault whichever notice is taken first (R92, R138; log 12). -/
def declareAbsent (order late lateEntry : List Lane) (s : State) : State :=
  let was := s.lanes
  let s := { s with
    refmon := { s.refmon with present := false }
    lanes := s.lanes.mapIdx fun _ l => l.referenceLost }
  let s := raiseLostLanes was (s.raiseGlobal .refLost)
  (laneOrder order).foldl (fun s n =>
    if (was.get n).mode.classifies then
      lossNotices n (was.get n).mode .reference (late.contains n) (lateEntry.contains n) s
    else s) s

/-- 4 µs have passed without an edge (R33; in ticks, log 27); a shorter gap has no effect. -/
def referenceGap (order late lateEntry : List Lane) (s : State) : State :=
  if s.refmon.gap < Config.gapTicks then s
  else
    let present := s.refmon.present
    let s := { s with refmon := { s.refmon with edges := 0 } }
    if present then declareAbsent order late lateEntry s else s

/-- A rising edge of REFCLK (R33, R34, R36). -/
def refclkEdge (s : State) : State :=
  let s := { s with refmon := { s.refmon with gap := 0 } }
  if s.refmon.present then s
  else if s.refmon.edges + 1 = Config.presentEdges then
    ({ s with
      refmon := { s.refmon with present := true, edges := Config.presentEdges }
      lanes := s.lanes.mapIdx fun _ l => l.referenceRestored } : State).raiseGlobal .refRestored
  else { s with refmon := { s.refmon with edges := s.refmon.edges + 1 } }

/-! ## Unit time -/

/-- A read side in the next unit time (R113, R118): its phase goes on, from S to 0 in READING. In COMPLETING the sweep
ends with its last slot, and the read side is IDLE, or stands at phase 0 while it waits for a release postponed behind
that sweep (R112; log 17). -/
def Bond.nextPhase (bd : Bond) : Bond :=
  match bd.rd.state with
  | .idle => bd
  | .reading =>
    { bd with rd := { bd.rd with
        phase := if bd.runSweep ≤ bd.rd.phase then 0 else bd.rd.phase + 1, slotTaken := false } }
  | .completing =>
    if bd.rd.phase = 0 then bd
    else if bd.rd.phase < bd.runSweep then { bd with rd := { bd.rd with phase := bd.rd.phase + 1, slotTaken := false } }
    else if bd.rel.state = .countdown ∧ bd.rel.postponed = true then
      { bd with rd := { bd.rd with phase := 0, slotTaken := false } }
    else bd.readIdle

/-- A release instant reached while the read side is COMPLETING is postponed (R112). -/
def Bond.postpone (bd : Bond) (now : Word32) : Bond :=
  if bd.rel.state = .countdown ∧ bd.rel.instant = some now ∧ bd.rd.state = .completing then
    { bd with rel := { bd.rel with postponed := true } }
  else bd

/-- A bond's read side, release unit and port in the next unit time (R113, R112, R142). -/
def Bond.nextUnit (bd : Bond) (now : Word32) : Bond :=
  let bd := bd.nextPhase.postpone now
  { bd with ra := { bd.ra with presented := none } }

/-- A unit time begins while the reference is PRESENT: what arrives at a bond by the end of the one before is taken (log 1),
the counter advances, and the read sides with it (R37, R113). -/
def advanceUnit (arrivals : Option (List (BondId × Sender))) (s : State) : State :=
  if s.refmon.present then
    let s := s.arrived arrivals
    let now := s.timestamp + 1
    { s with timestamp := now, bonds := s.bonds.mapIdx fun _ bd => bd.nextUnit now }
  else s

/-! ## Call line slots -/

/-- A call line sender begins a word (R14, R15), and its bond and release unit take the word-begun notice (R16, R100,
R127). -/
def Bond.sendWord (bd : Bond) : Bond :=
  let w := bd.callWord
  { bd with
    callSeq := if w = bd.lastSent then bd.callSeq else bd.callSeq + 1
    lastSent := w
    lineKind := w.kind
    lineIndex := w.index
    rel := { bd.rel with go := w.kind == .go } }

/-- A word slot begins on every call line (R13, R14). R13 has one at every second tick alone, and `tick` queues those; what
a CALL_WORD_SLOT does that a sender puts in the queue off that schedule is open: it begins a slot all the same, and the
schedule (`slotDue`) stays as it is (DESIGN CHOICE, log 31). -/
def beginSlot (s : State) : State :=
  { s with bonds := s.bonds.mapIdx fun _ bd => bd.sendWord, lineStarted := true }

/-- Every release unit takes an epoch event, and passes it over while the reference is ABSENT (R111). -/
def takeEpoch (late : List BondId) (s : State) : State :=
  if s.refmon.present then allBonds.foldl (fun s b => releaseUnitTakesEpoch b (late.contains b) s) s else s

end Sys2Proof.Machine
end

