-- ==== Sys2Proof/Machine/Resets.lean ====
section
/-! DEFINITION. Pin reset (R185) and soft reset (R189). The commands that wait are no state of the part, and a reset
leaves them in the queue (log 20). -/

namespace Sys2Proof.Machine

/-- The part while RSTN is low: every piece of state at its pin-reset value, the port with no transaction and SDO
undriven (R185). -/
def State.heldInReset (s : State) : State := { State.reset with pending := s.pending }

/-- RSTN rises: with CSN low at that moment, the port waits for CSN to rise and fall again (R185). -/
def State.leaveReset (s : State) (csnLow : Bool) : State :=
  { s with port := { s.port with txn := if csnLow then .ended else .idle } }

/-- Pin reset: RSTN falls and rises again (R185; log 20). -/
def pinReset (csnLow : Bool) (s : State) : State := s.heldInReset.leaveReset csnLow

/-- A transaction that is ended from inside: what is left of it is ignored until CSN rises (R180, R189). -/
def Txn.cut : Txn → Txn
  | .idle => .idle
  | .active _ _ _ | .ended => .ended

/-- Soft reset: every piece of state at its pin-reset value but for the IRQ level and drive, and the transaction ends
(R169, R189). -/
def softReset (s : State) : State :=
  { State.reset with
    irq := { Irq.reset with level := s.irq.level, drive := s.irq.drive }
    port := { HostPort.reset with txn := s.port.txn.cut }
    pending := s.pending }

end Sys2Proof.Machine
end

