-- ==== Sys2Proof/Machine/Window.lean ====
section
/-! DEFINITION. What every word of the register window reads as, live: the layouts of 11_host_port_and_register_window.md
("Layouts"), absent fields (R190) and the inspection window (R191). -/

namespace Sys2Proof.Machine

/-! ## Words and codes -/

/-- The low word of a 32-bit value, which is read first. -/
def lowWord (x : Word32) : Word := x.setWidth 16

/-- The high word of a 32-bit value. -/
def highWord (x : Word32) : Word := x.extractLsb' 16 16

/-- The two words of a 32-bit value by place, low first. -/
def halfWord (x : Word32) (k : Nat) : Word := if k = 0 then lowWord x else highWord x

/-- A number in a word. -/
def numWord (n : Nat) : Word := BitVec.ofNat 16 n

def LaneMode.code : LaneMode → Nat
  | .off => 0 | .acquiring => 1 | .seeking => 2 | .locked => 3

def Polarity.code : Polarity → Nat
  | .normal => 0 | .inverted => 1

def LossCause.code : LossCause → Nat
  | .strikes => 0 | .frequency => 1 | .reference => 2 | .disabled => 3

def WriteSide.code : WriteSide → Nat
  | .closed => 0 | .watching => 1 | .opened => 2

def EntryStatus.code : EntryStatus → Nat
  | .empty => 0 | .seen => 1 | .confirmed => 2 | .stale => 3

def BondState.code : BondState → Nat
  | .disabled => 0 | .holding => 1 | .calling => 2 | .aligning => 3 | .running => 4 | .mending => 5 | .halted => 6

def ReleaseState.code : ReleaseState → Nat
  | .idle => 0 | .markWait => 1 | .epochWait => 2 | .countdown => 3 | .released => 4

def ReadState.code : ReadState → Nat
  | .idle => 0 | .reading => 1 | .completing => 2

def Standing.code : Standing → Nat
  | .clean => 0 | .filling => 1 | .spoiled => 2

def Command.code : Command → Nat
  | .start => 1 | .stop => 2 | .retrain => 3 | .clearFault => 4 | .clearCounters => 5

def ResultKind.code : ResultKind → Nat
  | .done => 1 | .refusedState => 2 | .refusedConfig => 3

def StartReason.code : StartReason → Nat
  | .noMembers => 1 | .laneTaken => 2 | .spareIsMember => 3 | .memberOff => 4 | .countMismatch => 5
  | .profileUnusable => 6 | .timingRange => 7

def RangeField.code : RangeField → Nat
  | .skewLimit => 1 | .callTimeout => 2 | .alignTimeout => 3 | .mendTimeout => 4 | .retrainLimit => 5

/-- The codes of R160. -/
def FaultCause.code : FaultCause → Nat
  | .holdTimeout => 1 | .callTimeout => 2 | .announceMismatch => 3 | .laneCount => 4 | .duplicateIndex => 5
  | .profileMismatch => 6 | .profileUnusable => 7 | .alignTimeout => 8 | .skew => 9 | .overflow => 10
  | .underflow => 11 | .laneLost => 12 | .markSlip => 13 | .laneDisabled => 14 | .refLost => 15
  | .secondLane => 16 | .mendMismatch => 17 | .mendSeat => 18 | .mendTimeout => 19 | .epochDrift => 20

def FieldName.code : FieldName → Nat
  | .sourceId => 1 | .bondTag => 2 | .laneCount => 3 | .channelCount => 4 | .sweepLength => 5 | .spareCapable => 6
  | .logicalIndex => 7

def SubCause.code : SubCause → Nat
  | .laneLost => 1 | .laneDisabled => 2 | .markSlip => 3 | .underflow => 4

def Detail.kindCode : Detail → Nat
  | .skew _ => 1 | .seatOffset _ => 2 | .field _ => 3 | .subCause _ => 4

/-- The value of a detail in its word: SKEW unsigned, SEAT_OFFSET two's complement. -/
def Detail.valueWord : Detail → Word
  | .skew n => numWord n
  | .seatOffset d => BitVec.ofInt 16 d
  | .field f => numWord f.code
  | .subCause c => numWord c.code

def MendOutcome.code : MendOutcome → Nat
  | .inProgress => 1 | .joined => 2 | .failed => 3

def TriggerCause.code : TriggerCause → Nat
  | .strikes => 1 | .frequency => 2 | .markSlip => 3 | .underflow => 4

def SnapState.code : SnapState → Nat
  | .idle => 0 | .armed => 1 | .filling => 2 | .done => 3 | .aborted => 4

def AbortCause.code : AbortCause → Nat
  | .laneDown => 1 | .timeout => 2 | .cancelled => 3

def RequestResult.code : RequestResult → Nat
  | .accepted => 1 | .busy => 2 | .laneOff => 3

def SnapTrigger.code : SnapTrigger → Nat
  | .next => 0 | .atMark => 1 | .atHead => 2

def SymbolClass.code : SymbolClass → Nat
  | .data _ => 1 | .idle => 2 | .mark => 3 | .head => 4 | .invalid => 5 | .inverted => 6

/-- A code that is 0 when its field is absent (R190). -/
def codeOr0 {α : Type} (o : Option α) (code : α → Nat) : Nat :=
  match o with
  | some a => code a
  | none => 0

/-- A presence bit at `present` beside a value at `pos`: both 0 when absent (R190). -/
def optFields {α : Type} (o : Option α) (present pos : Nat) (value : α → Nat) : List (Nat × Nat) :=
  match o with
  | some a => [(1, present), (value a, pos)]
  | none => []

/-! ## Global block -/

/-- The global control word; RESET_PART reads 0. -/
def Irq.controlWord (q : Irq) : Word :=
  packWord [(bitNat (q.level == .activeHigh), 1), (bitNat (q.drive == .openDrain), 2)]

/-- An epoch phase word: the phase in bits 10 to 0, presence in bit 15 (R191). -/
def phaseWord (p : Option Nat) : Word := packWord (optFields p 15 0 fun x => x % 2048)

/-- One half of an arrival; an absent one reads 0 (R190). -/
def ReleaseUnit.arrivalHalf (r : ReleaseUnit) (i : Index) (k : Nat) : Word :=
  halfWord ((r.arrivals.get i).getD 0) k

/-- A unit of the held row; 0 where it holds none. -/
def Reassembly.heldUnit (ra : Reassembly) (k : Nat) : Word := (ra.held.getD []).getD k 0

/-- The run shape word (R191). -/
def Reassembly.runShapeWord (ra : Reassembly) : Word :=
  match ra.runShape with
  | some sh => shapeWord sh 1 false
  | none => 0

/-- Word `k` of the inspection window for an item of a bond (R191). -/
def Bond.windowWord (bd : Bond) (item k : Nat) : Word :=
  match item with
  | 0 =>
    match k with
    | 0 | 1 => halfWord (bd.rel.skew.getD 0) k
    | 2 | 3 => halfWord (bd.rel.instant.getD 0) (k - 2)
    | 4 => phaseWord bd.rel.releasePhase
    | _ => phaseWord bd.rel.lastPhase
  | 1 => bd.rel.arrivalHalf (Fin.ofNat 8 (k / 2)) (k % 2)
  | 2 => bd.rel.arrivalHalf (Fin.ofNat 8 (3 + k / 2)) (k % 2)
  | 3 =>
    match k with
    | 0 | 1 | 2 | 3 => bd.rel.arrivalHalf (Fin.ofNat 8 (6 + k / 2)) (k % 2)
    | 4 => packWord (allIndices.map fun i => (bitNat (bd.rel.arrivals.get i).isSome, i.val))
    | _ => packWord [(bitNat bd.rel.skew.isSome, 0), (bitNat bd.rel.instant.isSome, 1)]
  | 4 => bd.ra.heldUnit k
  | 5 =>
    match k with
    | 0 | 1 => bd.ra.heldUnit (6 + k)
    | 2 => packWord [(bitNat bd.ra.held.isSome, 15)]
    | 3 => bd.ra.runShapeWord
    | _ => 0
  | _ => 0

/-- A word of the global block. -/
def globalWord (s : State) (off : Nat) : Word :=
  match off with
  | 0 => packWord [(Config.partCode, 8), (Config.revision, 0)]
  | 1 => s.irq.controlWord
  | 2 => packWord [(bitNat s.refmon.present, 0), (s.refmon.edges % 128, 1)]
  | 3 | 4 => halfWord s.timestamp (off - 3)
  | 5 => packWord (optFields s.port.refused 15 0 BitVec.toNat)
  | 6 => s.irq.summary
  | 7 => s.irq.globalPending.setWidth 16
  | 8 => s.irq.globalEnable.setWidth 16
  | 9 => packWord [(s.port.selBond.val, 0), (s.port.selItem.toNat, 2)]
  | _ => (s.bonds.get s.port.selBond).windowWord s.port.selItem.toNat (off - 10)

/-! ## Lane block and announcement entry -/

/-- A lane's configuration word. -/
def LaneRx.configWord (l : LaneRx) : Word :=
  packWord [(bitNat l.enable, 0), (l.cfgPolarity.code, 1), (bitNat l.autoPolarity, 2), (l.acqTimeout.toNat, 8)]

/-- Lane status A. -/
def LaneRx.statusA (l : LaneRx) : Word :=
  packWord ([(l.mode.code, 0), (l.polarity.code, 2), (l.lockRun % 64, 6)] ++ optFields l.lastLoss 3 4 LossCause.code)

/-- Lane status B. -/
def LaneRx.statusB (l : LaneRx) : Word :=
  packWord [(l.invRun % 32, 0), (l.strikes % 8, 5), (l.relief % 64, 8)]

/-- A lane's buffer word. -/
def Buffer.statusWord (bf : Buffer) : Word :=
  packWord [(bf.entries.length % 2048, 0), (bf.side.code, 12)]

/-- A word of a lane block; offsets 11 to 15 are unmapped and sampled as 0 (R183). -/
def laneWord (s : State) (n : Lane) (off : Nat) : Word :=
  let l := s.lanes.get n
  match off with
  | 0 => l.configWord
  | 1 => 0
  | 2 => l.statusA
  | 3 => l.statusB
  | 4 | 5 => halfWord l.invalidSymbols (off - 4)
  | 6 => l.lockLosses
  | 7 => l.acqFailures
  | 8 => (s.irq.lanePending.get n).setWidth 16
  | 9 => (s.irq.laneEnable.get n).setWidth 16
  | 10 => (s.bufs.get n).statusWord
  | _ => 0

/-- A word of an announcement entry; words 13 to 15 read 0 (R190). -/
def Entry.word (e : Entry) (off : Nat) : Word :=
  match off with
  | 0 => packWord [(e.status.code, 0), (e.repeats % 4, 2)]
  | 1 => identityWord e.record.common.sourceId e.record.common.bondTag e.record.logicalIndex.toNat
  | 2 => shapeWord e.record.common.shape (e.record.label.length % 8) e.record.common.spareCapable
  | 3 | 4 | 5 | 6 | 7 | 8 => e.record.label.getD (off - 3) 0
  | 9 | 10 => halfWord e.captured (off - 9)
  | 11 => e.checkFailures
  | 12 => e.malformed
  | _ => 0

/-! ## Bond block -/

/-- The configuration words, offsets 0 to 9 (CFG). -/
def BondConfig.word (cfg : BondConfig) (off : Nat) : Word :=
  match off with
  | 0 => packWord ((cfg.members.toNat, 0) :: optFields cfg.spare 8 9 Fin.val)
  | 1 =>
    packWord [(bitNat (cfg.matchMode == .learn), 0), (bitNat cfg.careSource, 1), (bitNat cfg.careTag, 2),
      (bitNat (cfg.releaseMode == .timed), 3), (bitNat (cfg.epochPolicy == .retrain), 4), (bitNat cfg.mending, 5),
      (bitNat (cfg.taintPolicy == .fillRest), 6), (bitNat (cfg.fillMode == .hold), 7), (cfg.epochTolerance.toNat, 8)]
  | 2 => identityWord cfg.expSource cfg.expTag 0
  | 3 => shapeWord cfg.expShape 0 false
  | 4 => cfg.releaseDelay.setWidth 16
  | 5 => cfg.skewLimit.setWidth 16
  | 6 => cfg.fillValue
  | 7 => packWord [(cfg.holdTimeout.toNat, 0), (cfg.callTimeout.toNat, 8)]
  | 8 => packWord [(cfg.alignTimeout.toNat, 0), (cfg.mendTimeout.toNat, 8)]
  | _ => cfg.retrainLimit.setWidth 16

/-- The status word, offset 11. -/
def Bond.statusWord (bd : Bond) : Word :=
  packWord [(bd.state.code, 0), (bd.rel.state.code, 3), (bitNat bd.rel.go, 6), (bd.rd.state.code, 7),
    (bd.ra.standing.code, 9), (bitNat bd.ra.validRows, 11), (bitNat (bd.rd.state != .idle), 12)]

/-- Half of the lane order map: four bits for each logical index from `base` up. -/
def Bond.mapWord (bd : Bond) (base : Nat) : Word :=
  packWord ([0, 1, 2, 3].flatMap fun j => optFields (bd.laneOf (Fin.ofNat 8 (base + j))) (4 * j + 3) (4 * j) Fin.val)

/-- An arrival offset: presence in bit 15, two's complement in bits 11 to 0. -/
def offsetWord (o : Option Int) : Word := packWord (optFields o 15 0 fun d => (BitVec.ofInt 12 d).toNat)

/-- The command result, offset 28. -/
def CmdResult.word (r : CmdResult) : Word :=
  packWord [(codeOr0 r.command Command.code, 0), (codeOr0 r.result ResultKind.code, 3),
    (codeOr0 r.stateAt BondState.code, 5), (codeOr0 r.reason StartReason.code, 8), (r.seq.toNat, 12)]

/-- The command details, offset 29. -/
def CmdResult.detailWord (r : CmdResult) : Word :=
  packWord (optFields r.lane 15 12 Fin.val ++ optFields r.other 11 9 Fin.val ++ [(codeOr0 r.field RangeField.code, 0)])

/-- The fault group: words 30 to 34, by place in the group. -/
def Bond.faultWord (bd : Bond) (k : Nat) : Word :=
  match k with
  | 0 =>
    packWord [(codeOr0 bd.fault fun f => f.cause.code, 0), (codeOr0 bd.fault fun f => f.stateAt.code, 5),
      (bd.faultCount.toNat, 8)]
  | 1 =>
    match bd.fault with
    | none => 0
    | some f =>
      packWord (optFields f.lane 15 12 Fin.val ++ optFields f.index 11 8 Fin.val
        ++ [(codeOr0 f.detail Detail.kindCode, 0)])
  | 2 =>
    match bd.fault with
    | none => 0
    | some f =>
      match f.detail with
      | some d => d.valueWord
      | none => 0
  | _ =>
    match bd.fault with
    | none => 0
    | some f => halfWord f.time (k - 3)

/-- The mend group: words 35 to 37, by place in the group. -/
def Bond.mendWord (bd : Bond) (k : Nat) : Word :=
  match bd.mend with
  | none => 0
  | some m =>
    match k with
    | 0 =>
      packWord [(m.outcome.code, 0), (bitNat (m.method == .rejoin), 2), (bitNat (m.phase == .seat), 3),
        (m.cause.code, 4), (m.k.val, 7), (m.trigger.val, 10), (m.joining.val, 13)]
    | 1 => packWord (optFields m.reference 15 12 Fin.val ++ [(bitNat m.offset.isSome, 11)])
    | _ => BitVec.ofInt 16 (m.offset.getD 0)

/-- The active profile words, offsets 14 and 15. -/
def Bond.profileWord (bd : Bond) (k : Nat) : Word :=
  match bd.profile with
  | none => 0
  | some p => if k = 0 then identityWord p.sourceId p.bondTag 1 else shapeWord p.shape 1 p.spareCapable

/-- A word of a bond block. -/
def bondWord (s : State) (b : BondId) (off : Nat) : Word :=
  let bd := s.bonds.get b
  if off < 10 then bd.cfg.word off
  else if 18 ≤ off ∧ off < 26 then offsetWord (bd.offsets.get (Fin.ofNat 8 (off - 18)))
  else if 30 ≤ off ∧ off < 35 then bd.faultWord (off - 30)
  else if 35 ≤ off ∧ off < 38 then bd.mendWord (off - 35)
  else
    match off with
    | 11 => bd.statusWord
    | 12 => packWord [(bd.settle % 8192, 0), (bd.retrain % 8, 13)]
    | 13 => numWord (bd.rd.phase % 2048)
    | 14 | 15 => bd.profileWord (off - 14)
    | 16 => bd.mapWord 0
    | 17 => bd.mapWord 4
    | 26 => bd.callWord.bits
    | 27 => bd.lastSent.bits + bd.callSeq.setWidth 16
    | 28 => bd.result.word
    | 29 => bd.result.detailWord
    | 38 => (s.irq.bondPending.get b).setWidth 16
    | 39 => (s.irq.bondEnable.get b).setWidth 16
    | 40 | 41 => halfWord bd.ra.sweeps (off - 40)
    | 42 | 43 => halfWord bd.ra.fillSweeps (off - 42)
    | 44 | 45 => halfWord bd.ra.taintedRows (off - 44)
    | 46 => bd.epochDrifts
    | 47 => bd.mends
    | _ => 0

/-! ## Snapshot block -/

/-- Four entry classes in one word (snapshot block, offsets 5 to 8). -/
def Snapshot.classWord (sn : Snapshot) (w : Nat) : Word :=
  packWord ([0, 1, 2, 3].map fun j => (codeOr0 sn.entries[4 * w + j]? SymbolClass.code, 4 * j))

/-- The unit of an entry; 0 where it is absent. -/
def Snapshot.unitWord (sn : Snapshot) (k : Nat) : Word :=
  match sn.entries[k]? with
  | some (.data u) => u
  | _ => 0

/-- The request word (snapshot block, offset 2). -/
def Snapshot.requestWord (sn : Snapshot) : Word :=
  match sn.lane, sn.trigger, sn.count with
  | some n, some tr, some c => packWord [(1, 15), (n.val, 2), (tr.code, 5), ((c - 1) % 16, 7)]
  | _, _, _ => 0

/-- A word of the snapshot block; offsets 25 to 31 are unmapped and sampled as 0 (R183). -/
def snapWord (s : State) (off : Nat) : Word :=
  let sn := s.snap
  match off with
  | 0 => 0
  | 1 =>
    packWord [(sn.state.code, 0), (sn.entries.length % 32, 3), (codeOr0 sn.abort AbortCause.code, 8),
      (codeOr0 sn.lastResult RequestResult.code, 10), (sn.seq.toNat, 12)]
  | 2 => sn.requestWord
  | 3 | 4 => halfWord (sn.instant.getD 0) (off - 3)
  | 5 | 6 | 7 | 8 => sn.classWord (off - 5)
  | _ => if off < 25 then sn.unitWord (off - 9) else 0

/-! ## Every word -/

/-- The live value of a word of the window; an unmapped word samples 0 (R183). -/
def readWord (s : State) (r : Reg) : Word :=
  match r with
  | .global off => globalWord s off.val
  | .lane n off => laneWord s n off.val
  | .entry n off => (s.rolls.get n).entry.word off.val
  | .bond b off => bondWord s b off.val
  | .snap off => snapWord s off.val
  | .unmapped => 0

/-- A copy of a whole held group as it stands (R186, R188). -/
def copyGroup (s : State) (g : HeldGroup) : HoldingCopy := ⟨g, g.regs.map (readWord s)⟩

end Sys2Proof.Machine
end

