-- ==== Sys2Proof/Machine/HostPort.lean ====
section
/-! DEFINITION. The host port: transactions word by word, writes by the kind of word, read slots and the holding copy
(11_host_port_and_register_window.md, R180 to R189). -/

namespace Sys2Proof.Machine

/-! ## Writes, by the kind of word (R182) -/

/-- A write of the global control word: with the RESET_PART position 1 a soft reset, else the IRQ fields are stored
(R169, R182, R189). -/
def writeControl (v : Word) (s : State) : State :=
  if wordBit v 0 then softReset s
  else
    { s with irq := { s.irq with
        level := if wordBit v 1 then .activeHigh else .activeLow
        drive := if wordBit v 2 then .openDrain else .pushPull } }

/-- A write of the inspection select word; item codes 6 and 7 have no meaning (R182, R191). -/
def writeSelect (v : Word) (s : State) : State :=
  if 6 ≤ (wordField v 2 3).toNat then s.raiseGlobal .portError
  else s.modPort fun p => { p with selBond := Fin.ofNat 4 (wordField v 0 2).toNat, selItem := wordField v 2 3 }

/-- A data word of a write transaction, by the word at its address (R182). -/
def hostWrite (r : Reg) (v : Word) (s : State) : State :=
  match r with
  | .global off =>
    match off.val with
    | 1 => writeControl v s
    | 7 => s.clearPending .global v
    | 8 => s.writeEnable .global v
    | 9 => writeSelect v s
    | _ => s.raiseGlobal .portError
  | .lane n off =>
    match off.val with
    | 0 => writeLaneConfig n v false false s
    | 1 => writeLaneControl n v s
    | 8 => s.clearPending (.lane n) v
    | 9 => s.writeEnable (.lane n) v
    | _ => s.raiseGlobal .portError
  | .bond b off =>
    if off.val < 10 then writeBondConfig b (Fin.ofNat 10 off.val) v s
    else
      match off.val with
      | 10 => writeCommand b v s
      | 38 => s.clearPending (.bond b) v
      | 39 => s.writeEnable (.bond b) v
      | _ => s.raiseGlobal .portError
  | .snap off => if off.val = 0 then writeSnapControl v s else s.raiseGlobal .portError
  | .entry _ _ | .unmapped => s.raiseGlobal .portError

/-! ## Read slots (R183, R186) -/

/-- The value of a later word of a held group: from the copy while it holds the group, else live (R186). -/
def HostPort.copied (p : HostPort) (g : HeldGroup) (k : Nat) : Option Word :=
  match p.copy with
  | some c => if c.group = g then c.words[k]? else none
  | none => none

/-- The start of a read slot: the sample, the filling of the copy, and PORT_ERROR of an unmapped word (R183, R186). -/
def readSlot (a : Addr) (s : State) : State :=
  let r := regAt a
  if r.isMapped then
    match heldAt r with
    | none => s.modPort fun p => { p with sample := readWord s r }
    | some (g, 0) => s.modPort fun p => { p with copy := some (copyGroup s g), sample := readWord s r }
    | some (g, k + 1) => s.modPort fun p => { p with sample := (p.copied g (k + 1)).getD (readWord s r) }
  else (s.modPort fun p => { p with sample := 0 }).raiseGlobal .portError

/-! ## Transactions (R180, R181, R184) -/

/-- What the port does with a data word of a direction at an address: the transaction after it, or none where the port
takes no such word now. With CSN high the word stands for a transaction of its own (log 8). -/
def Txn.take (t : Txn) (read : Bool) (a : Addr) : Option Txn :=
  match t with
  | .idle => some .idle
  | .active rd inc addr =>
    if rd = read ∧ addr = a then some (.active rd inc (if inc then addr + 1 else addr)) else none
  | .ended => none

/-- A data word at an address acts as `act` gives, where the port takes it (R181; log 8). -/
def dataWord (read : Bool) (a : Addr) (act : State → State) (s : State) : State :=
  match s.port.txn.take read a with
  | some t => act (s.modPort fun p => { p with txn := t })
  | none => s

/-- A data word of a write transaction. -/
def writeWord (a : Addr) (act : State → State) (s : State) : State := dataWord false a act s

/-- A read slot. -/
def readSlotAt (a : Addr) (s : State) : State := dataWord true a (readSlot a) s

/-- A header is judged (R180). -/
def takeHeader (h : Word) (s : State) : State :=
  if wordField h 9 5 = 0 then
    s.modPort fun p => { p with txn := .active (wordBit h 15) (wordBit h 14) (wordField h 0 9) }
  else (s.modPort fun p => { p with txn := .ended }).raiseGlobal .portError

/-- CSN rises: the transaction is over (R184). -/
def endTransaction (s : State) : State := s.modPort fun p => { p with txn := .idle }

/-- CSN rises with some bits of a word received: PORT_ERROR, but not in a transaction that had ended (R180, R184). -/
def partialWord (bits : Fin 16) (s : State) : State :=
  let s' := endTransaction s
  if bits = 0 ∨ s.port.txn = .ended then s' else s'.raiseGlobal .portError

end Sys2Proof.Machine
end

