-- ==== Sys2Proof/Machine/BondCommands.lean ====
section
/-! DEFINITION. The meanings of the commands of the call lines, the bonds, their timers and their read sides. -/

namespace Sys2Proof.Machine

/-- CALL_WORD_SLOT (R14). -/
def execCallWordSlot (s : State) : Host.Outcome State Fault Refusal := .next (beginSlot s)

/-- BOND_CONFIG_WRITE (R61). -/
def execBondConfigWrite (b : BondId) (off : Fin 10) (v : Word) (s : State) : Host.Outcome State Fault Refusal :=
  .next (writeWord (bondAddr b off.val) (writeBondConfig b off v) s)

/-- START (R67): a write of 1 to the bond's command word. -/
def execStart (b : BondId) (s : State) : Host.Outcome State Fault Refusal :=
  .next (writeWord (bondAddr b 10) (takeStart b) s)

/-- STOP (R69): a write of 2. -/
def execStop (b : BondId) (s : State) : Host.Outcome State Fault Refusal :=
  .next (writeWord (bondAddr b 10) (takeStop b) s)

/-- RETRAIN (R70): a write of 3. -/
def execRetrain (b : BondId) (s : State) : Host.Outcome State Fault Refusal :=
  .next (writeWord (bondAddr b 10) (takeRetrain b) s)

/-- CLEAR_FAULT (R71): a write of 4. -/
def execClearFault (b : BondId) (s : State) : Host.Outcome State Fault Refusal :=
  .next (writeWord (bondAddr b 10) (takeClearFault b) s)

/-- CLEAR_COUNTERS (R72): a write of 5. -/
def execClearCounters (b : BondId) (s : State) : Host.Outcome State Fault Refusal :=
  .next (writeWord (bondAddr b 10) (takeClearCounters b) s)

/-- HOLD_TIMEOUT (R79). -/
def execHoldTimeout (b : BondId) (s : State) : Host.Outcome State Fault Refusal := .next (holdExpire b s)

/-- CALL_TIMEOUT (R86). -/
def execCallTimeout (b : BondId) (s : State) : Host.Outcome State Fault Refusal := .next (callExpire b s)

/-- ALIGN_TIMEOUT (R87). -/
def execAlignTimeout (b : BondId) (s : State) : Host.Outcome State Fault Refusal := .next (alignExpire b s)

/-- EPOCH_EVENT (R111). -/
def execEpochEvent (s : State) (late : List BondId := []) : Host.Outcome State Fault Refusal :=
  .next (takeEpoch late s)

/-- RELEASE (R112): the read slot of data position 0 is in it (log 6). -/
def execRelease (b : BondId) (s : State) (late : Bool := false) : Host.Outcome State Fault Refusal :=
  .next (takeRelease b late s)

/-- READ_SIDE_SLOT (R114). -/
def execReadSideSlot (b : BondId) (reportFirst : Bool) (s : State) (late : Bool := false) :
    Host.Outcome State Fault Refusal :=
  .next (takeSlot b reportFirst late s)

/-- SEAT_COMPLETE (R136): the join slot's read is in it (log 6); a seat not at its join slot does not complete. -/
def execSeatComplete (b : BondId) (s : State) (late : Bool := false) : Host.Outcome State Fault Refusal :=
  .next (if s.seatDue b then takeSlot b false late s else s)

/-- MEND_TIMEOUT (R126). -/
def execMendTimeout (b : BondId) (s : State) : Host.Outcome State Fault Refusal := .next (mendExpire b s)

end Sys2Proof.Machine
end

