-- ==== Sys2Proof/Machine/LaneCommands.lean ====
section
/-! DEFINITION. The meanings of the commands of the lanes, the reference monitor and unit time. -/

namespace Sys2Proof.Machine

/-- REFCLK_EDGE (R34). -/
def execRefclkEdge (s : State) : Host.Outcome State Fault Refusal := .next (refclkEdge s)

/-- REFERENCE_GAP (R33). -/
def execReferenceGap (order : List Lane) (s : State) (late : List Lane := []) (lateEntry : List Lane := []) :
    Host.Outcome State Fault Refusal :=
  .next (referenceGap order late lateEntry s)

/-- LANE_ENABLE (R19): a write of the lane's configuration word. -/
def execLaneEnable (n : Lane) (v : Word) (s : State) : Host.Outcome State Fault Refusal :=
  .next (writeWord (laneAddr n 0) (writeLaneConfig n v false false) s)

/-- LANE_DISABLE (R29): a write of the lane's configuration word. -/
def execLaneDisable (n : Lane) (v : Word) (s : State) (late : Bool := false) (lateEntry : Bool := false) :
    Host.Outcome State Fault Refusal :=
  .next (writeWord (laneAddr n 0) (writeLaneConfig n v late lateEntry) s)

/-- ACQ_TIMEOUT (R20). -/
def execAcqTimeout (n : Lane) (s : State) : Host.Outcome State Fault Refusal := .next (acqExpire n s)

/-- FREQUENCY_LOCK (R21). -/
def execFrequencyLock (n : Lane) (s : State) : Host.Outcome State Fault Refusal := .next (frequencyLock n s)

/-- FREQUENCY_LOSS (R28). -/
def execFrequencyLoss (n : Lane) (s : State) (late : Bool := false) (lateEntry : Bool := false) :
    Host.Outcome State Fault Refusal :=
  .next (frequencyLoss n late lateEntry s)

/-- LANE_SYMBOL (R22): a lane in OFF or ACQUIRING classifies no symbol (R2). -/
def execLaneSymbol (n : Lane) (p : LinePattern) (h : Handing) (s : State) : Host.Outcome State Fault Refusal :=
  .next (if (s.lanes.get n).mode.classifies then takeSymbol n p h s else s)

/-- LANE_CLEAR_COUNTERS (R32): a write of 1 to the lane's control word. -/
def execLaneClearCounters (n : Lane) (s : State) : Host.Outcome State Fault Refusal :=
  .next (writeWord (laneAddr n 1) (clearLaneCounters n) s)

/-- TIMESTAMP_COUNTER_ADVANCE (R37): a unit time begins. -/
def execTimestampCounterAdvance (s : State) (arrivals : Option (List (BondId × Sender)) := none) :
    Host.Outcome State Fault Refusal :=
  .next (advanceUnit arrivals s)

end Sys2Proof.Machine
end

