-- ==== Sys2Proof/Machine/PortCommands.lean ====
section
/-! DEFINITION. The meanings of the commands of the resets, the snapshot unit, the interrupt controller and the host
port. -/

namespace Sys2Proof.Machine

/-- PIN_RESET (R185). -/
def execPinReset (csnLow : Bool) (s : State) : Host.Outcome State Fault Refusal := .next (pinReset csnLow s)

/-- RESET_PART (R189): a write of the global control word. -/
def execResetPart (v : Word) (s : State) : Host.Outcome State Fault Refusal :=
  .next (writeWord (globalAddr 1) (writeControl v) s)

/-- SNAPSHOT_REQUEST (R173): a write of the snapshot control word with action 1. -/
def execSnapshotRequest (n : Lane) (trigger : BitVec 2) (count : BitVec 4) (s : State) :
    Host.Outcome State Fault Refusal :=
  .next (writeWord (snapAddr 0) (snapRequest n trigger count) s)

/-- SNAPSHOT_CANCEL (R178): a write of the snapshot control word with action 2. -/
def execSnapshotCancel (s : State) : Host.Outcome State Fault Refusal := .next (writeWord (snapAddr 0) snapCancel s)

/-- SNAPSHOT_TIMEOUT (R177). -/
def execSnapshotTimeout (s : State) : Host.Outcome State Fault Refusal := .next (armingExpire s)

/-- PENDING_CLEAR (R165): a write of the group's pending word. -/
def execPendingClear (g : FlagGroup) (v : Word) (s : State) : Host.Outcome State Fault Refusal :=
  .next (writeWord (pendingAddr g) (fun t => t.clearPending g v) s)

/-- INSPECTION_SELECT (R191): a write of the inspection select word. -/
def execInspectionSelect (v : Word) (s : State) : Host.Outcome State Fault Refusal :=
  .next (writeWord (globalAddr 9) (writeSelect v) s)

/-- REGISTER_WRITE (R182). -/
def execRegisterWrite (a : Addr) (v : Word) (s : State) : Host.Outcome State Fault Refusal :=
  .next (writeWord a (hostWrite (regAt a) v) s)

/-- TRANSACTION_HEADER (R180). -/
def execTransactionHeader (h : Word) (s : State) : Host.Outcome State Fault Refusal := .next (takeHeader h s)

/-- HOLDING_COPY_FILL (R186): a read slot, which fills the copy where its address is word 0 of a held group (log 9). -/
def execHoldingCopyFill (a : Addr) (s : State) : Host.Outcome State Fault Refusal := .next (readSlotAt a s)

/-- READ_UNMAPPED (R183): a read slot, which samples 0 and raises PORT_ERROR where its address is unmapped (log 9). -/
def execReadUnmapped (a : Addr) (s : State) : Host.Outcome State Fault Refusal := .next (readSlotAt a s)

/-- PARTIAL_WORD (R184). -/
def execPartialWord (bits : Fin 16) (s : State) : Host.Outcome State Fault Refusal := .next (partialWord bits s)

/-- TRANSACTION_END (R184). -/
def execTransactionEnd (s : State) : Host.Outcome State Fault Refusal := .next (endTransaction s)

end Sys2Proof.Machine
end

