-- ==== Sys2Proof/Machine/Dispatch.lean ====
section
/-! DEFINITION. The meaning of every command, one arm each. -/

namespace Sys2Proof.Machine

def exec (i : Instr) (s : State) : Host.Outcome State Fault Refusal :=
  match i with
  | .pinReset csnLow => Sys2Proof.Machine.execPinReset csnLow s
  | .resetPart v => Sys2Proof.Machine.execResetPart v s
  | .refclkEdge => Sys2Proof.Machine.execRefclkEdge s
  | .referenceGap order late lateEntry => Sys2Proof.Machine.execReferenceGap order s late lateEntry
  | .laneEnable n v => Sys2Proof.Machine.execLaneEnable n v s
  | .laneDisable n v late lateEntry => Sys2Proof.Machine.execLaneDisable n v s late lateEntry
  | .acqTimeout n => Sys2Proof.Machine.execAcqTimeout n s
  | .frequencyLock n => Sys2Proof.Machine.execFrequencyLock n s
  | .frequencyLoss n late lateEntry => Sys2Proof.Machine.execFrequencyLoss n s late lateEntry
  | .laneSymbol n p h => Sys2Proof.Machine.execLaneSymbol n p h s
  | .laneClearCounters n => Sys2Proof.Machine.execLaneClearCounters n s
  | .callWordSlot => Sys2Proof.Machine.execCallWordSlot s
  | .bondConfigWrite b off v => Sys2Proof.Machine.execBondConfigWrite b off v s
  | .start b => Sys2Proof.Machine.execStart b s
  | .stop b => Sys2Proof.Machine.execStop b s
  | .retrain b => Sys2Proof.Machine.execRetrain b s
  | .clearFault b => Sys2Proof.Machine.execClearFault b s
  | .clearCounters b => Sys2Proof.Machine.execClearCounters b s
  | .holdTimeout b => Sys2Proof.Machine.execHoldTimeout b s
  | .callTimeout b => Sys2Proof.Machine.execCallTimeout b s
  | .alignTimeout b => Sys2Proof.Machine.execAlignTimeout b s
  | .epochEvent late => Sys2Proof.Machine.execEpochEvent s late
  | .release b late => Sys2Proof.Machine.execRelease b s late
  | .readSideSlot b reportFirst late => Sys2Proof.Machine.execReadSideSlot b reportFirst s late
  | .seatComplete b late => Sys2Proof.Machine.execSeatComplete b s late
  | .mendTimeout b => Sys2Proof.Machine.execMendTimeout b s
  | .snapshotRequest n trigger count => Sys2Proof.Machine.execSnapshotRequest n trigger count s
  | .snapshotCancel => Sys2Proof.Machine.execSnapshotCancel s
  | .snapshotTimeout => Sys2Proof.Machine.execSnapshotTimeout s
  | .pendingClear g v => Sys2Proof.Machine.execPendingClear g v s
  | .inspectionSelect v => Sys2Proof.Machine.execInspectionSelect v s
  | .registerWrite a v => Sys2Proof.Machine.execRegisterWrite a v s
  | .transactionHeader h => Sys2Proof.Machine.execTransactionHeader h s
  | .holdingCopyFill a => Sys2Proof.Machine.execHoldingCopyFill a s
  | .readUnmapped a => Sys2Proof.Machine.execReadUnmapped a s
  | .partialWord bits => Sys2Proof.Machine.execPartialWord bits s
  | .timestampCounterAdvance arrivals => Sys2Proof.Machine.execTimestampCounterAdvance s arrivals
  | .transactionEnd => Sys2Proof.Machine.execTransactionEnd s

end Sys2Proof.Machine
end

