-- ==== Sys2Proof/Machine/Timebase.lean ====
section
/-! DEFINITION. One tick of the 1 µs timebase, taken by a step on an empty queue: every timer counts, and the commands
that come due join the queue in a fixed order (log 4). -/

namespace Sys2Proof.Machine

/-- A bond's timers count a tick (R76, R126). -/
def Bond.tick (bd : Bond) : Bond :=
  { bd with
    holdTimer := bd.holdTimer.tick
    callTimer := bd.callTimer.tick
    alignTimer := bd.alignTimer.tick
    mendTimer := bd.mendTimer.tick }

/-- The reference monitor's gap grows until it is a reference gap (R33). -/
def RefMonitor.tick (r : RefMonitor) : RefMonitor :=
  { r with gap := if r.gap < Config.gapTicks then r.gap + 1 else r.gap }

/-- Every timer counts a tick, and the slot schedule goes on (R13, R20, R33, R76, R126, R177). -/
def countTick (s : State) : State :=
  { s with
    lanes := s.lanes.mapIdx fun _ l => { l with acqTimer := l.acqTimer.tick }
    bonds := s.bonds.mapIdx fun _ bd => bd.tick
    snap := { s.snap with timer := s.snap.timer.tick }
    refmon := s.refmon.tick
    slotDue := !s.slotDue }

/-- The expiries of a bond's timers that are due. -/
def Bond.dueCommands (bd : Bond) (b : BondId) : List Instr :=
  (if bd.holdTimer.due then [.holdTimeout b] else []) ++ (if bd.callTimer.due then [.callTimeout b] else [])
    ++ (if bd.alignTimer.due then [.alignTimeout b] else []) ++ (if bd.mendTimer.due then [.mendTimeout b] else [])

/-- The commands that a tick brings: `was` is the state before the tick. -/
def dueCommands (was s : State) : List Instr :=
  (if was.slotDue then [.callWordSlot] else [])
    ++ (if was.refmon.gap < Config.gapTicks ∧ s.refmon.gap = Config.gapTicks then [.referenceGap [] []] else [])
    ++ (allLanes.filter fun n => (s.lanes.get n).acqTimer.due).map Instr.acqTimeout
    ++ allBonds.flatMap (fun b => (s.bonds.get b).dueCommands b)
    ++ (if s.snap.timer.due then [.snapshotTimeout] else [])

/-- One tick of the timebase; what is on its way to a bond has been taken before it (log 1). -/
def tick (s : State) : State :=
  let s := s.landed
  let s' := countTick s
  { s' with pending := s'.pending ++ dueCommands s s' }

end Sys2Proof.Machine
end

