-- ==== Sys2Proof/Machine/Pins.lean ====
section
/-! DEFINITION. What the part shows on its pins, as views of the state: IRQ (R169, in Flags.lean), the call lines (R192),
the stream output ports (R142) and SDO (R180, R183). -/

namespace Sys2Proof.Machine

/-- The 16 bits of a word, bit 15 first. -/
def wordBits (w : Word) : List Bool := (List.range 16).map fun i => w.getLsbD (15 - i)

/-- Odd parity over cells: the parity cell makes the number of high cells odd (R192). -/
def oddParity (cells : List Bool) : Bool := (cells.filter id).length % 2 == 0

/-- The 20 cells of a slot that carries a word (R192). -/
def callFrame (w : CallWord) : List Bool :=
  let cells := wordBits w.bits
  [true] ++ cells ++ [oddParity cells, true, false]

/-- The cells of the present slot of a bond's call line; the line is low until the first slot after a reset (R192). -/
def State.callLine (s : State) (b : BondId) : List Bool :=
  if s.lineStarted then callFrame (s.bonds.get b).lastSent else List.replicate 20 false

/-- The row flag word of a stream output port (Stream output row). -/
def Row.flags (r : Row) : BitVec 8 :=
  BitVec.ofNat 8 (bitNat r.valid + 2 * bitNat r.first + 4 * bitNat r.tainted + 16 * r.startChannel.toNat)

/-- Whether a stream output port is STREAMING (R142). -/
def Bond.streaming (bd : Bond) : Bool := bd.rd.state != .idle

/-- The units and flags a port presents with a row strobe in the present unit time; none without a strobe (R142). The row
of a slot is presented in the whole unit time of that slot, also where a departure in it has taken the read side to IDLE
after the read (R118; DEDUCED, log 17). -/
def Bond.portRow (bd : Bond) : Option (List Word × BitVec 8) := bd.ra.presented.map fun r => (r.units, r.flags)

/-- What stands on an IDLE port's unit and flag lines: zeros (R142), from the unit time after its last row. What a
STREAMING port shows in a gap slot, without a strobe, the rules do not say (log 21). -/
def Bond.idleLines (bd : Bond) : Option (List Word × BitVec 8) :=
  if bd.streaming || bd.ra.presented.isSome then none else some (List.replicate 8 0, 0)

/-- What SDO shifts out while the 16 bits of a header arrive (R183). -/
def headerSdo : Word := 0

/-- What SDO shifts out in the present word: the sample in a read data word, 0 in a write data word (R183); none while it
is undriven, which it is while CSN is high and while RSTN is low (R180, R185). With CSN low after the transaction has
ended, or since before RSTN rose, no rule says what SDO shows: it shows 0 (DESIGN CHOICE, log 30). -/
def HostPort.sdo (p : HostPort) : Option Word :=
  match p.txn with
  | .idle => none
  | .active true _ _ => some p.sample
  | .active false _ _ => some 0
  | .ended => some 0

end Sys2Proof.Machine
end

