-- ==== Sys2Proof/Safety.lean ====
section
/-! DEFINITION. What stays true of the part: the invariants the spec prints in bold (R63, R84, R96, R98, R172) and the
relations between its fields that make them so. Each is a decidable property of one state. -/

namespace Sys2Proof.Machine

/-! ## Lane receivers and the reference monitor -/

/-- The enable follows the lane state (R19, R29), the timeout is never 0 (R17), the lock-run count is 32 exactly in
LOCKED (R23, R26), and the inverted-idle run, the strike count and the relief run keep below the values that end them
(R24, R25, R27). -/
abbrev LaneRx.Counts (l : LaneRx) : Prop :=
  (l.enable = true ↔ l.mode ≠ .off) ∧ l.acqTimeout ≠ 0 ∧ l.lockRun ≤ Config.lockRunLength
    ∧ (l.mode = .locked ↔ l.lockRun = Config.lockRunLength)
    ∧ l.invRun < Config.invertedRunLength ∧ l.strikes < Config.strikeLimit ∧ l.relief < Config.reliefRunLength

/-- The acquisition timer runs in ACQUIRING with the reference PRESENT, is held there with it ABSENT, and is stopped in
every other lane state (R20, R35). -/
abbrev LaneRx.TimerFollows (l : LaneRx) (present : Bool) : Prop :=
  (l.mode = .acquiring ↔ l.acqTimer ≠ .stopped)
    ∧ (l.mode = .acquiring → (l.acqTimer.isRunning = true ↔ present = true))

abbrev State.LanesOk (s : State) : Prop :=
  ∀ n : Lane, (s.lanes.get n).Counts ∧ (s.lanes.get n).TimerFollows s.refmon.present

/-- No lane is SEEKING or LOCKED while the reference is ABSENT (R21, R35). -/
abbrev State.NoSearchWithoutReference (s : State) : Prop :=
  s.refmon.present = false → ∀ n : Lane, (s.lanes.get n).mode.classifies = false

/-- The monitor has counted 64 edges exactly while it is PRESENT (R33, R34). -/
abbrev State.MonitorOk (s : State) : Prop :=
  s.refmon.edges ≤ Config.presentEdges ∧ (s.refmon.present = true ↔ s.refmon.edges = Config.presentEdges)

/-! ## The announcement table -/

/-- The repeat count of each status (R39). -/
abbrev Entry.RepeatsOk (e : Entry) : Prop :=
  (e.status = .empty ∨ e.status = .stale → e.repeats = 0)
    ∧ (e.status = .seen → 1 ≤ e.repeats ∧ e.repeats < Config.confirmCount)
    ∧ (e.status = .confirmed → e.repeats = Config.confirmCount)

/-- A stored record is well formed: at most six label words, and its logical_index is less than its lane_count (R9). -/
abbrev Entry.RecordOk (e : Entry) : Prop :=
  e.record.label.length ≤ 6 ∧ e.record.logicalIndex.toNat < e.record.common.shape.lanes

/-- A lane is listened to exactly while it is LOCKED, and a record is open only then (R40, R42). -/
abbrev State.ListeningOk (s : State) : Prop :=
  ∀ n : Lane, ((s.rolls.get n).listening = true ↔ (s.lanes.get n).mode = .locked)
    ∧ ((s.rolls.get n).openRec.isSome = true → (s.rolls.get n).listening = true)

abbrev State.EntriesOk (s : State) : Prop :=
  ∀ n : Lane, (s.rolls.get n).entry.RepeatsOk ∧ (s.rolls.get n).entry.RecordOk

/-! ## Claims -/

/-- A lane is claimed by at most one bond (R63). -/
abbrev State.ClaimsDisjoint (s : State) : Prop :=
  ∀ b c : BondId, ∀ n : Lane, (s.bonds.get b).claims n = true → (s.bonds.get c).claims n = true → b = c

/-- No lane is member and spare of one bond that is not DISABLED (R63). -/
abbrev State.SparesApart (s : State) : Prop :=
  ∀ b : BondId, ∀ n : Lane, (s.bonds.get b).state ≠ .disabled → (s.bonds.get b).cfg.isMember n = true →
    (s.bonds.get b).cfg.spare ≠ some n

/-! ## One bond -/

/-- Whether a bond has passed a roll call and not left since (R84): ALIGNING, RUNNING or MENDING. -/
def BondState.joined : BondState → Bool
  | .aligning | .running | .mending => true
  | .disabled | .holding | .calling | .halted => false

/-- Whether the active profile and the map are absent in a state (R69, R78, R80). -/
def BondState.bare : BondState → Bool
  | .disabled | .holding | .calling => true
  | .aligning | .running | .mending | .halted => false

/-- The active profile and the lane order map come and go together (R84). -/
abbrev Bond.ProfileOk (bd : Bond) : Prop :=
  (bd.profile.isSome = true ↔ bd.map.isSome = true) ∧ (bd.state.joined = true → bd.profile.isSome = true)
    ∧ (bd.state.bare = true → bd.profile = none)

/-- In ALIGNING, RUNNING and MENDING the map gives each index below the lane count one member, every member has one
index, and no index from the lane count up has a lane (R84). -/
abbrev Bond.MapOk (bd : Bond) : Prop :=
  bd.state.joined = true →
    (∀ i : Index, i.val < bd.laneCount ↔ (bd.laneOf i).isSome = true)
    ∧ (∀ i j : Index, (bd.laneOf i).isSome = true → bd.laneOf i = bd.laneOf j → i = j)
    ∧ (∀ n : Lane, bd.cfg.isMember n = true ↔ (bd.indexOf n).isSome = true)

/-- The member set has as many lanes as the active profile says, while it is present (R84). -/
abbrev Bond.SizeOk (bd : Bond) : Prop :=
  bd.profile.isSome = true → bd.cfg.memberList.length = bd.laneCount

/-- The retrain count never exceeds the retrain limit while the bond is not DISABLED, nor the settle count 4096 (R90,
R96). -/
abbrev Bond.CountsOk (bd : Bond) : Prop :=
  (bd.state ≠ .disabled → bd.retrain ≤ bd.cfg.retrainLimit.toNat) ∧ bd.settle ≤ Config.settleLimit

/-- No timing field of a bond that is not DISABLED is out of its range (R58). -/
abbrev Bond.RangesOk (bd : Bond) : Prop := bd.state ≠ .disabled → bd.cfg.rangeFailure = none

/-- Each bond timer runs in its own state alone; the call, align and mend timers always run there (R76, R126). -/
abbrev Bond.TimersOk (bd : Bond) : Prop :=
  (bd.holdTimer.isRunning = true → bd.state = .holding) ∧ (bd.callTimer.isRunning = true ↔ bd.state = .calling)
    ∧ (bd.alignTimer.isRunning = true ↔ bd.state = .aligning) ∧ (bd.mendTimer.isRunning = true ↔ bd.state = .mending)

/-- The line word is the last-sent word's kind and index (R127), and GO is indicated exactly while that kind is GO
(R100). -/
abbrev Bond.LineOk (bd : Bond) : Prop :=
  bd.lineKind = bd.lastSent.kind ∧ bd.lineIndex = bd.lastSent.index
    ∧ (bd.rel.go = true ↔ bd.lastSent.kind = .go)

/-- The release unit waits in ALIGNING alone, is RELEASED in RUNNING and MENDING, and is IDLE otherwise (R107). It is
RELEASED in ALIGNING only while its release report is on its way (R112), and never with a release instant more than 1024
unit times after the earliest start mark (R194). -/
abbrev Bond.ReleaseOk (bd : Bond) : Prop :=
  (bd.state = .aligning → bd.rel.state ≠ .idle)
    ∧ (bd.state = .aligning → bd.rel.state = .released → .released ∈ bd.inFlight)
    ∧ (bd.state = .running ∨ bd.state = .mending → bd.rel.state = .released)
    ∧ (bd.state.joined = false → bd.rel.state = .idle)
    ∧ (bd.rel.state = .released → bd.rel.instant.any bd.rel.pastDepth = false)

/-- The read side is READING exactly while the release unit is RELEASED; the run shape is present exactly while it is not
IDLE; IDLE has phase 0 and no withdrawn lane; the phase never passes the sweep length (R113, R117, R118, R141). -/
abbrev Bond.ReadOk (bd : Bond) : Prop :=
  (bd.rd.state = .reading ↔ bd.rel.state = .released)
    ∧ (bd.ra.runShape.isSome = true ↔ bd.rd.state ≠ .idle)
    ∧ (bd.rd.state = .idle → bd.rd.phase = 0 ∧ bd.rd.withdrawn = 0)
    ∧ bd.rd.phase ≤ bd.runSweep

/-- A held row has as many units as its bond has members, and as the run shape has lanes (R150); a READING read side takes
its run shape from the active profile (R141). -/
abbrev Bond.HeldOk (bd : Bond) : Prop :=
  (∀ units ∈ bd.ra.held, (bd.state ≠ .disabled → units.length = bd.cfg.memberList.length)
      ∧ ∀ sh ∈ bd.ra.runShape, units.length = sh.lanes)
    ∧ (bd.rd.state = .reading → bd.ra.runShape = bd.profile.map Profile.shape)

/-- No sweep is CLEAN or FILLING unless the bond counts as RUNNING (R145, R146). -/
abbrev Bond.StandingOk (bd : Bond) : Prop := bd.countsRunning = false → bd.ra.standing = .spoiled

/-- A mend is in progress exactly in MENDING, and a seat only in its phase SEAT (R122, R125, R134, R139). -/
abbrev Bond.MendOk (bd : Bond) : Prop :=
  ((∃ m ∈ bd.mend, m.outcome = .inProgress) ↔ bd.state = .mending)
    ∧ (bd.seat.isSome = true → ∃ m ∈ bd.mend, m.outcome = .inProgress ∧ m.phase = .seat)

/-- A mend in progress mends the logical index that its trigger lane carries; MOVE joins the configured spare, REJOIN the
trigger lane (R122, R123, R124). -/
abbrev Bond.MendLanesOk (bd : Bond) : Prop :=
  ∀ m ∈ bd.mend, m.outcome = .inProgress → bd.laneOf m.k = some m.trigger
    ∧ (m.method = .move → bd.cfg.spare = some m.joining) ∧ (m.method = .rejoin → m.joining = m.trigger)

abbrev Bond.Ok (bd : Bond) : Prop :=
  bd.ProfileOk ∧ bd.MapOk ∧ bd.SizeOk ∧ bd.CountsOk ∧ bd.RangesOk ∧ bd.TimersOk ∧ bd.LineOk ∧ bd.ReleaseOk
    ∧ bd.ReadOk ∧ bd.HeldOk ∧ bd.StandingOk ∧ bd.MendOk ∧ bd.MendLanesOk

/-- Whether a notice is a lane's lock-lost notice. -/
def Notice.losesLock (n : Lane) : Notice → Bool
  | .lockLost m _ => m == n
  | .lockGained _ | .entryStatus _ _ | .markSlip _ | .overflow _ | .skew _ _ | .released | .sweepCompleted _
  | .underflow _ | .epochDrift => false

/-- Every member is LOCKED in CALLING and ALIGNING, for a lock loss is a fault there; but for a member whose lock-lost
notice is on its way to the bond (R78, R79, R91). -/
abbrev State.MembersLocked (s : State) : Prop :=
  ∀ b : BondId, (s.bonds.get b).state = .calling ∨ (s.bonds.get b).state = .aligning → ∀ n : Lane,
    (s.bonds.get b).cfg.isMember n = true →
    (s.lanes.get n).mode = .locked ∨ ∃ x ∈ (s.bonds.get b).inFlight, x.losesLock n = true

/-- No lock-lost notice of a lane that reads LOCKED is on its way to a bond: one lock loss never meets a bond that has the
lane back (R92; DESIGN CHOICE, log 1). -/
abbrev State.LossesArrived (s : State) : Prop :=
  ∀ (b : BondId) (n : Lane), (s.lanes.get n).mode = .locked → ∀ x ∈ (s.bonds.get b).inFlight, x.losesLock n = false

/-! ## Elastic buffers -/

/-- No buffer holds more than 1024 entries, and the sweep count is 0 unless the write side is OPEN (R98, R102). -/
abbrev Buffer.DepthOk (bf : Buffer) : Prop :=
  bf.entries.length ≤ Config.bufferDepth ∧ (bf.side ≠ .opened → bf.sweepCount = 0)

/-- A buffer is empty and closed while its lane is OFF, has no owning bond, or has one in HOLDING or CALLING (R98,
R99). -/
abbrev State.BuffersOk (s : State) : Prop :=
  ∀ n : Lane, (s.bufs.get n).DepthOk ∧
    (((s.bufs.get n).entries ≠ [] ∨ (s.bufs.get n).side ≠ .closed) →
      (s.lanes.get n).mode ≠ .off
        ∧ ∃ b ∈ s.owner n, (s.bonds.get b).state.bare = false)

/-- While a MOVE is in progress the trigger lane's buffer is empty and closed, so that the lane it retires leaves nothing
behind (R64, R121, R125). -/
abbrev State.TriggerBuffersOk (s : State) : Prop :=
  ∀ b : BondId, ∀ m ∈ (s.bonds.get b).mend, m.outcome = .inProgress → m.method = .move →
    (s.bufs.get m.trigger).entries = [] ∧ (s.bufs.get m.trigger).side = .closed

/-! ## The snapshot unit -/

/-- At most 16 entries, and never more than the request asks (R172, R176); the arming timer runs in ARMED alone
(R177). -/
abbrev Snapshot.Ok (sn : Snapshot) : Prop :=
  sn.entries.length ≤ 16 ∧ (∀ c ∈ sn.count, 1 ≤ c ∧ c ≤ 16 ∧ sn.entries.length ≤ c)
    ∧ (sn.timer.isRunning = true ↔ sn.state = .armed)
    ∧ (sn.state = .armed → sn.entries = [])
    ∧ (sn.busy = true → sn.lane.isSome = true ∧ sn.trigger.isSome = true ∧ sn.count.isSome = true)
    ∧ (sn.state = .filling → ∀ c ∈ sn.count, sn.entries.length < c)
    ∧ (sn.abort.isSome = true ↔ sn.state = .aborted)

/-- The request lane of a request in progress is not OFF (R173, R177). -/
abbrev State.SnapLaneOk (s : State) : Prop :=
  s.snap.busy = true → ∀ n ∈ s.snap.lane, (s.lanes.get n).mode ≠ .off

/-! ## The whole part -/

/-- Everything above together. -/
structure State.Inv (s : State) : Prop where
  lanes : s.LanesOk
  search : s.NoSearchWithoutReference
  monitor : s.MonitorOk
  listening : s.ListeningOk
  entries : s.EntriesOk
  claims : s.ClaimsDisjoint
  spares : s.SparesApart
  bonds : ∀ b : BondId, (s.bonds.get b).Ok
  locked : s.MembersLocked
  losses : s.LossesArrived
  buffers : s.BuffersOk
  triggers : s.TriggerBuffersOk
  snap : s.snap.Ok
  snapLane : s.SnapLaneOk

/-! ## Vocabulary of the statements -/

/-- The state once the port has taken a data word and stands at the transaction `x`. -/
def State.withTxn (s : State) (x : Txn) : State := { s with port := { s.port with txn := x } }

/-- The port takes a data word of the direction at the address, and then stands at `x` (R181; log 8). -/
def State.Takes (s : State) (read : Bool) (a : Addr) (x : Txn) : Prop := s.port.txn.take read a = some x

/-- Whether a notice or report of a sender is on its way to a bond (R75; log 1). -/
def State.inFlightFrom (s : State) (b : BondId) (x : Sender) : Bool :=
  (s.bonds.get b).inFlight.any fun y => y.sender == x

/-- A row on the port as it stands there in the slot of data position j: eight unit positions, those from L up 0, with
FIRST and the start channel of that position (R142, R144). -/
structure Row.Shows (row : Row) (sh : Shape) (j : Nat) (valid tainted : Bool) (u : Index → Word) : Prop where
  length : row.units.length = 8
  units : ∀ i : Index, row.units[i.val]? = some (if i.val < sh.lanes then u i else 0)
  valid : row.valid = valid
  first : row.first = decide (j = 0)
  tainted : row.tainted = tainted
  startChannel : row.startChannel = BitVec.ofNat 4 ((j * sh.lanes) % sh.channels)

/-- The unit of an invalid row at a position: the fill value in mode VALUE, the held row's unit in mode HOLD, and the fill
value in mode HOLD while no row is held (R149, R150). -/
def Bond.fillAt (bd : Bond) (i : Index) : Word :=
  match bd.cfg.fillMode, bd.ra.held with
  | .value, _ => bd.cfg.fillValue
  | .hold, some units => units.getD i.val 0
  | .hold, none => bd.cfg.fillValue

/-- What a read slot of data position j leaves of reassembly where `f` are the units handed and the bond counts as RUNNING
(R143 to R150, R155): `ra` after a slot of the bond `bd`. The sweep is CLEAN at its first row, and after it while its
standing is. -/
structure RowPresented (bd : Bond) (sh : Shape) (j : Nat) (f : Index → Word × Bool) (ra : Reassembly) : Prop where
  valid : j = 0 ∨ bd.ra.standing = .clean →
    bd.cfg.taintPolicy = .pass ∨ (∀ i : Index, i.val < sh.lanes → (f i).2 = false) →
    ra.standing = .clean ∧ ra.validRows = true
      ∧ ra.held = some ((indicesBelow sh.lanes).map fun i => if (f i).2 then bd.cfg.fillValue else (f i).1)
      ∧ ∃ row tainted, ra.presented = some row
        ∧ row.Shows sh j true tainted (fun i => if (f i).2 then bd.cfg.fillValue else (f i).1)
        ∧ (tainted = true ↔ ∃ i : Index, i.val < sh.lanes ∧ (f i).2 = true)
        ∧ ra.taintedRows = if tainted then satInc bd.ra.taintedRows else bd.ra.taintedRows
  cut : j = 0 ∨ bd.ra.standing = .clean → bd.cfg.taintPolicy = .fillRest →
    (∃ i : Index, i.val < sh.lanes ∧ (f i).2 = true) →
    ra.standing = .filling ∧ ra.validRows = (decide (j ≠ 0) && bd.ra.validRows) ∧ ra.held = bd.ra.held
      ∧ ra.taintedRows = satInc bd.ra.taintedRows
      ∧ ∃ row, ra.presented = some row ∧ row.Shows sh j false false bd.fillAt
  filled : j ≠ 0 → bd.ra.standing ≠ .clean →
    ra.standing = bd.ra.standing ∧ ra.validRows = bd.ra.validRows ∧ ra.held = bd.ra.held
      ∧ ((∃ i : Index, i.val < sh.lanes ∧ (f i).2 = true) → bd.ra.standing = .filling →
          ra.taintedRows = satInc bd.ra.taintedRows)
      ∧ ((∀ i : Index, i.val < sh.lanes → (f i).2 = false) ∨ bd.ra.standing = .spoiled →
          ra.taintedRows = bd.ra.taintedRows)
      ∧ ∃ row, ra.presented = some row ∧ row.Shows sh j false false bd.fillAt
  runShape : ra.runShape = bd.ra.runShape

/-- Two states whose bonds other than `b` are alike. -/
def State.OtherBonds (b : BondId) (s t : State) : Prop := ∀ c : BondId, c ≠ b → t.bonds.get c = s.bonds.get c

/-- Two states whose lane receivers other than `n` are alike. -/
def State.OtherLanes (n : Lane) (s t : State) : Prop := ∀ m : Lane, m ≠ n → t.lanes.get m = s.lanes.get m

/-- What no event but a reset, a tick, a unit time or a reference event changes: the counter, the monitor and the slot
schedule; and the queue, which no command changes. -/
structure State.SameTime (s t : State) : Prop where
  timestamp : t.timestamp = s.timestamp
  refmon : t.refmon = s.refmon
  slotDue : t.slotDue = s.slotDue
  lineStarted : t.lineStarted = s.lineStarted
  pending : t.pending = s.pending

/-- A fault of a bond as R95, R96 and R159 give it: the record or the count, FAULT, the retrain or HALTED, and what it
leaves; what is on its way to the bond stays so, with the notices of the entries cleared on entry to CALLING (R53, R80;
log 1). -/
structure FaultTaken (b : BondId) (cause : FaultCause) (lane : Option Lane) (index : Option Index)
    (detail : Option Detail) (s t : State) : Prop where
  first : (s.bonds.get b).fault = none →
    (t.bonds.get b).fault = some ⟨cause, (s.bonds.get b).state, lane, index, detail, s.timestamp⟩
      ∧ (t.bonds.get b).faultCount = (s.bonds.get b).faultCount
  later : (s.bonds.get b).fault ≠ none → (t.bonds.get b).fault = (s.bonds.get b).fault
    ∧ (t.bonds.get b).faultCount = satInc (s.bonds.get b).faultCount
  flag : t.bondFlag b .fault = true
  mend : (s.bonds.get b).state = .mending →
    (t.bonds.get b).mend = (s.bonds.get b).mend.map (fun m => { m with outcome := .failed })
      ∧ (t.bonds.get b).seat = none
  retrains : (s.bonds.get b).retrain < (s.bonds.get b).cfg.retrainLimit.toNat →
    (t.bonds.get b).retrain = (s.bonds.get b).retrain + 1
      ∧ (t.bonds.get b).state = (if s.membersLocked b then .calling else .holding)
      ∧ (t.bonds.get b).profile = none ∧ (t.bonds.get b).map = none
  halts : (s.bonds.get b).cfg.retrainLimit.toNat ≤ (s.bonds.get b).retrain →
    (t.bonds.get b).retrain = (s.bonds.get b).retrain ∧ (t.bonds.get b).state = .halted
      ∧ t.bondFlag b .halted = true ∧ (t.bonds.get b).profile = (s.bonds.get b).profile
      ∧ (t.bonds.get b).map = (s.bonds.get b).map
  config : (t.bonds.get b).cfg = (s.bonds.get b).cfg
  result : (t.bonds.get b).result = (s.bonds.get b).result
  counters : (t.bonds.get b).mends = (s.bonds.get b).mends
    ∧ (t.bonds.get b).epochDrifts = (s.bonds.get b).epochDrifts
    ∧ (t.bonds.get b).ra.sweeps = (s.bonds.get b).ra.sweeps
    ∧ (t.bonds.get b).ra.fillSweeps = (s.bonds.get b).ra.fillSweeps
    ∧ (t.bonds.get b).ra.taintedRows = (s.bonds.get b).ra.taintedRows
  line : (t.bonds.get b).lastSent = (s.bonds.get b).lastSent ∧ (t.bonds.get b).callSeq = (s.bonds.get b).callSeq
  inFlight : (t.bonds.get b).inFlight = (s.bonds.get b).inFlight ++
    if (s.bonds.get b).retrain < (s.bonds.get b).cfg.retrainLimit.toNat ∧ s.membersLocked b = true then
      s.clearNotices (s.bonds.get b).cfg.isMember
    else []
  lanes : t.lanes = s.lanes
  others : State.OtherBonds b s t
  entries : ∀ n, (s.bonds.get b).cfg.isMember n = false → t.rolls.get n = s.rolls.get n
  buffers : ∀ n, (s.bonds.get b).cfg.names n = false → t.bufs.get n = s.bufs.get n
  snap : t.snap = s.snap
  port : t.port = s.port
  time : State.SameTime s t

end Sys2Proof.Machine
end

