-- ==== Sys2Proof/Certificates/Slice0/Obligations.lean ====
section
/-! DEFINITION. The statements for the provers. OBLIGATIONS.json gives each its rule, its tier and its kind. -/

section Slice0Statements
open Sys2Proof Sys2Proof.Machine

/-! ## The queue, the reset state and the invariants -/

/-- A step takes the command at the front of the queue and runs it on the rest. -/
def Obligations.StepRunsTheFrontCommand : Prop :=
  ∀ (c : Instr) (rest : List Instr) (s : State), step { s with pending := c :: rest } = exec c { s with pending := rest }

/-- A step on an empty queue is one tick of the 1 µs timebase (DESIGN CHOICE, log 4): each bond takes what is on its way to
it (`s.landed`, DESIGN CHOICE, log 1; nothing where nothing is), the slot schedule goes on, running timers count, and what
comes due joins the queue. -/
def Obligations.IdleStepTicksTheTimebase : Prop :=
  ∀ s : State, s.pending = [] → ∃ t d, step s = .next t ∧ d = s.landed
    ∧ ((∀ b, (s.bonds.get b).inFlight = []) → d = s) ∧ (∀ b, (t.bonds.get b).inFlight = [])
    ∧ t.slotDue = !s.slotDue ∧ (s.slotDue = true → Instr.callWordSlot ∈ t.pending)
    ∧ (∀ b k l, (d.bonds.get b).holdTimer = .running k l → k < l →
        (t.bonds.get b).holdTimer = .running (k + 1) l ∧ (k + 1 = l → Instr.holdTimeout b ∈ t.pending))
    ∧ (∀ b k l, (d.bonds.get b).callTimer = .running k l → k < l →
        (t.bonds.get b).callTimer = .running (k + 1) l ∧ (k + 1 = l → Instr.callTimeout b ∈ t.pending))
    ∧ (∀ b k l, (d.bonds.get b).alignTimer = .running k l → k < l →
        (t.bonds.get b).alignTimer = .running (k + 1) l ∧ (k + 1 = l → Instr.alignTimeout b ∈ t.pending))
    ∧ (∀ b k l, (d.bonds.get b).mendTimer = .running k l → k < l →
        (t.bonds.get b).mendTimer = .running (k + 1) l ∧ (k + 1 = l → Instr.mendTimeout b ∈ t.pending))
    ∧ (∀ n k l, (s.lanes.get n).acqTimer = .running k l → k < l →
        (t.lanes.get n).acqTimer = .running (k + 1) l ∧ (k + 1 = l → Instr.acqTimeout n ∈ t.pending))
    ∧ (∀ k l, s.snap.timer = .running k l → k < l →
        t.snap.timer = .running (k + 1) l ∧ (k + 1 = l → Instr.snapshotTimeout ∈ t.pending))
    ∧ (s.refmon.gap + 1 = Config.gapTicks → Instr.referenceGap [] ∈ t.pending)
    ∧ t.timestamp = s.timestamp ∧ t.port = s.port ∧ t.irq = d.irq ∧ t.rolls = d.rolls ∧ t.bufs = d.bufs
    ∧ ∀ b, (t.bonds.get b).state = (d.bonds.get b).state

/-- What the chapters state of the part right after reset, every field of State but for the model's own ones, which log 15
names. -/
def Obligations.ResetLeavesThePartAtItsResetValues : Prop :=
  (∀ n : Lane, State.reset.lanes.get n =
    { enable := false, cfgPolarity := .normal, autoPolarity := false, acqTimeout := 100, mode := .off
      polarity := .normal, lockRun := 0, invRun := 0, strikes := 0, relief := 0, lastLoss := none
      invalidSymbols := 0, lockLosses := 0, acqFailures := 0, acqTimer := .stopped })
  ∧ (∀ n : Lane, State.reset.rolls.get n =
    { listening := false, prevMark := false, openRec := none
      entry := ⟨.empty, 0, ⟨⟨0, 0, ⟨0, 0, 0⟩, false⟩, 0, []⟩, 0, 0, 0⟩ })
  ∧ (∀ n : Lane, (State.reset.bufs.get n).entries = [] ∧ (State.reset.bufs.get n).side = .closed
      ∧ (State.reset.bufs.get n).markMemory = none ∧ (State.reset.bufs.get n).sweepCount = 0)
  ∧ (∀ b : BondId, (State.reset.bonds.get b).cfg =
    { members := 0, spare := none, matchMode := .exact, expSource := 0, expTag := 0, expShape := ⟨0, 0, 0⟩
      careSource := true, careTag := true, releaseMode := .free, releaseDelay := 0, skewLimit := 256
      epochTolerance := 2, epochPolicy := .report, mending := false, taintPolicy := .pass, fillMode := .value
      fillValue := 0, holdTimeout := 0, callTimeout := 10, alignTimeout := 10, mendTimeout := 5, retrainLimit := 3 })
  ∧ (∀ b : BondId, (State.reset.bonds.get b).state = .disabled ∧ (State.reset.bonds.get b).profile = none
      ∧ (State.reset.bonds.get b).map = none ∧ (∀ i, (State.reset.bonds.get b).offsets.get i = none)
      ∧ (State.reset.bonds.get b).retrain = 0 ∧ (State.reset.bonds.get b).settle = 0
      ∧ (State.reset.bonds.get b).holdTimer = .stopped ∧ (State.reset.bonds.get b).callTimer = .stopped
      ∧ (State.reset.bonds.get b).alignTimer = .stopped ∧ (State.reset.bonds.get b).mendTimer = .stopped
      ∧ (State.reset.bonds.get b).fault = none ∧ (State.reset.bonds.get b).faultCount = 0
      ∧ (State.reset.bonds.get b).mend = none ∧ (State.reset.bonds.get b).seat = none
      ∧ (State.reset.bonds.get b).mends = 0 ∧ (State.reset.bonds.get b).epochDrifts = 0
      ∧ (State.reset.bonds.get b).callWord = ⟨.quiet, 0, 0⟩ ∧ (State.reset.bonds.get b).lastSent = ⟨.quiet, 0, 0⟩
      ∧ (State.reset.bonds.get b).callSeq = 0 ∧ (State.reset.bonds.get b).lineKind = .quiet
      ∧ (State.reset.bonds.get b).lineIndex = 0
      ∧ (State.reset.bonds.get b).result = ⟨none, none, none, none, none, none, none, 0⟩
      ∧ (State.reset.bonds.get b).inFlight = [])
  ∧ (∀ b : BondId, (State.reset.bonds.get b).rel.state = .idle ∧ (State.reset.bonds.get b).rel.go = false
      ∧ (∀ i, (State.reset.bonds.get b).rel.arrivals.get i = none) ∧ (State.reset.bonds.get b).rel.skew = none
      ∧ (State.reset.bonds.get b).rel.instant = none ∧ (State.reset.bonds.get b).rel.releasePhase = none
      ∧ (State.reset.bonds.get b).rel.lastPhase = none
      ∧ (State.reset.bonds.get b).rd.state = .idle ∧ (State.reset.bonds.get b).rd.phase = 0
      ∧ (State.reset.bonds.get b).rd.withdrawn = 0
      ∧ (State.reset.bonds.get b).ra.runShape = none ∧ (State.reset.bonds.get b).ra.standing = .spoiled
      ∧ (State.reset.bonds.get b).ra.held = none ∧ (State.reset.bonds.get b).ra.sweeps = 0
      ∧ (State.reset.bonds.get b).ra.fillSweeps = 0 ∧ (State.reset.bonds.get b).ra.taintedRows = 0
      ∧ (State.reset.bonds.get b).ra.validRows = false ∧ (State.reset.bonds.get b).portRow = none
      ∧ (State.reset.bonds.get b).idleLines = some (List.replicate 8 0, 0))
  ∧ State.reset.refmon.present = false ∧ State.reset.refmon.edges = 0 ∧ State.reset.timestamp = 0
  ∧ State.reset.snap = ⟨.idle, none, none, none, [], none, none, none, 0, .stopped⟩
  ∧ State.reset.irq.globalPending = 0 ∧ State.reset.irq.globalEnable = 0
  ∧ (∀ n : Lane, State.reset.irq.lanePending.get n = 0 ∧ State.reset.irq.laneEnable.get n = 0)
  ∧ (∀ b : BondId, State.reset.irq.bondPending.get b = 0 ∧ State.reset.irq.bondEnable.get b = 0)
  ∧ State.reset.irq.level = .activeLow ∧ State.reset.irq.drive = .pushPull
  ∧ State.reset.irq.asserted = false ∧ State.reset.irq.line = .high
  ∧ State.reset.port.txn = .idle ∧ State.reset.port.copy = none ∧ State.reset.port.sdo = none
  ∧ State.reset.port.refused = none ∧ State.reset.port.selBond = 0 ∧ State.reset.port.selItem = 0
  ∧ (∀ b : BondId, State.reset.callLine b = List.replicate 20 false) ∧ State.reset.pending = []

/-- The invariant holds right after reset, the part of it that rests on log 1 (DESIGN CHOICE) included. -/
def Obligations.InvariantHoldsAtReset : Prop := State.reset.Inv

/-- Every step keeps the invariant: claims, lane order maps, retrain counts, buffer depths and all that goes with them, and
that no release unit is RELEASED more than 1024 unit times after the earliest start mark (R194; DEDUCED, log 36), and that
no lock-lost notice of a lane that reads LOCKED is on its way to a bond (DESIGN CHOICE, log 1). -/
def Obligations.EveryStepKeepsTheInvariant : Prop := ∀ s t : State, s.Inv → step s = .next t → t.Inv

/-- Every step keeps the snapshot unit within its request and its 16 entries (R172). -/
def Obligations.EveryStepKeepsSnapshotBounds : Prop := ∀ s t : State, s.snap.Ok → step s = .next t → t.snap.Ok

/-- Every step keeps every elastic buffer within 1024 entries (R98). -/
def Obligations.EveryStepKeepsBufferDepth : Prop :=
  ∀ s t : State, (∀ n, (s.bufs.get n).DepthOk) → step s = .next t → ∀ n, (t.bufs.get n).DepthOk

/-- Every step keeps the repeat count that goes with each entry status, and only well-formed records stored (R39, R9). -/
def Obligations.EveryStepKeepsEntryRepeats : Prop := ∀ s t : State, s.EntriesOk → step s = .next t → t.EntriesOk

/-- Every step keeps the line word and the GO indication equal to the last-sent word (R100, R127). -/
def Obligations.EveryStepKeepsLineWords : Prop :=
  ∀ s t : State, (∀ b, (s.bonds.get b).LineOk) → step s = .next t → ∀ b, (t.bonds.get b).LineOk

/-- Every step keeps the retrain count within the retrain limit (R96). -/
def Obligations.EveryStepKeepsRetrainsWithinLimit : Prop :=
  ∀ s t : State, (∀ b, (s.bonds.get b).CountsOk) → step s = .next t → ∀ b, (t.bonds.get b).CountsOk

/-- Every step keeps the lane receivers and the reference monitor in their legal combinations: no lane searches without a
reference, and each acquisition timer runs exactly where it may (R20, R21, R35). -/
def Obligations.EveryStepKeepsLaneReceivers : Prop :=
  ∀ s t : State, s.LanesOk ∧ s.NoSearchWithoutReference ∧ s.MonitorOk → step s = .next t →
    t.LanesOk ∧ t.NoSearchWithoutReference ∧ t.MonitorOk

/-! ## The reference, unit time and the lane receivers -/

/-- REFCLK_EDGE (R34, R36): a PRESENT monitor only starts its gap (in ticks, log 27) afresh; an ABSENT one counts,
and the 64th edge declares PRESENT, raises REF_RESTORED and starts the acquisition timer of every ACQUIRING lane. -/
def Obligations.RefclkEdgeCountsAndDeclaresPresent : Prop :=
  ∀ s : State,
    (s.refmon.present = true → exec .refclkEdge s = .next { s with refmon := { s.refmon with gap := 0 } })
    ∧ (s.refmon.present = false → s.refmon.edges + 1 ≠ 64 →
        exec .refclkEdge s = .next { s with refmon := ⟨false, s.refmon.edges + 1, 0⟩ })
    ∧ (s.refmon.present = false → s.refmon.edges + 1 = 64 → ∃ t, exec .refclkEdge s = .next t
        ∧ t = { s with
            refmon := ⟨true, 64, 0⟩, lanes := t.lanes
            irq := { s.irq with globalPending := s.irq.globalPending ||| 2 } }
        ∧ ∀ n, t.lanes.get n =
            if (s.lanes.get n).mode = .acquiring then
              { s.lanes.get n with acqTimer := .running 0 ((s.lanes.get n).acqTimeout.toNat * 10) }
            else s.lanes.get n)

/-- REFERENCE_GAP (R33, R35): with a gap of 4 ticks of the timebase since the last edge (DEDUCED, log 27) the edge count
becomes 0; with a shorter one the command has no effect (DEDUCED, log 3). A PRESENT monitor declares ABSENT, raises
REF_LOST and takes every lane that searches or is locked to ACQUIRING with cause REFERENCE and a held timer (before any
notice is taken, DEDUCED, log 12), whichever notices stay on their way (log 1); the counter keeps its value. -/
def Obligations.ReferenceGapDeclaresAbsent : Prop :=
  ∀ (order late lateEntry : List Lane) (s : State),
    (s.refmon.gap < 4 → exec (.referenceGap order late lateEntry) s = .next s)
    ∧ (4 ≤ s.refmon.gap → s.refmon.present = false →
        exec (.referenceGap order late lateEntry) s = .next { s with refmon := ⟨false, 0, s.refmon.gap⟩ })
    ∧ (4 ≤ s.refmon.gap → s.refmon.present = true → ∃ t,
        exec (.referenceGap order late lateEntry) s = .next t
        ∧ t.refmon = ⟨false, 0, s.refmon.gap⟩ ∧ t.globalFlag .refLost = true ∧ t.timestamp = s.timestamp
        ∧ t.port = s.port ∧ t.pending = s.pending
        ∧ ∀ n,
            ((s.lanes.get n).mode = .off → t.lanes.get n = s.lanes.get n)
            ∧ ((s.lanes.get n).mode = .acquiring →
                t.lanes.get n = { s.lanes.get n with acqTimer := (s.lanes.get n).acqTimer.hold })
            ∧ ((s.lanes.get n).mode.classifies = true →
                (t.lanes.get n).mode = .acquiring ∧ (t.lanes.get n).acqTimer = .held 0
                ∧ (t.lanes.get n).lastLoss = some .reference ∧ (t.lanes.get n).lockRun = 0
                ∧ (t.lanes.get n).invRun = 0 ∧ (t.lanes.get n).strikes = 0
                ∧ (t.lanes.get n).polarity = (s.lanes.get n).polarity)
            ∧ ((s.lanes.get n).mode = .locked →
                (t.lanes.get n).lockLosses = satInc (s.lanes.get n).lockLosses ∧ t.laneFlag n .lockLost = true
                ∧ (t.rolls.get n).listening = false))

/-- TIMESTAMP_COUNTER_ADVANCE (R37, R112, R113, R118, R142): with the reference PRESENT the counter advances by one
modulo 2^32, and in the same step (DESIGN CHOICE, log 5) every read side passes to its next phase: READING from S to 0;
COMPLETING up to S, then to IDLE, or to a wait at phase 0 for a release postponed behind it (DEDUCED, log 17). A release
instant reached in COMPLETING is postponed, no row stands on a port, and nothing else of a bond changes but what it takes
of what was on its way to it: everything, or what the operand names (`s.arrived`, DESIGN CHOICE, log 1), and nothing where
it names nothing. With the reference ABSENT nothing changes. -/
def Obligations.UnitTimeAdvancesCounterAndPhases : Prop :=
  ∀ (arrivals : Option (List (BondId × Sender))) (s : State),
    (s.refmon.present = false → exec (.timestampCounterAdvance arrivals) s = .next s)
    ∧ (s.refmon.present = true → ∃ t d, exec (.timestampCounterAdvance arrivals) s = .next t ∧ d = s.arrived arrivals
        ∧ ((∀ b, (s.bonds.get b).inFlight = []) ∨ arrivals = some [] → d = s)
        ∧ (arrivals = none → ∀ b, (t.bonds.get b).inFlight = [])
        ∧ t = { d with timestamp := s.timestamp + 1, bonds := t.bonds }
        ∧ ∀ b, let bd := d.bonds.get b
          let bd' := t.bonds.get b
          bd' = { bd with
              rd := bd'.rd
              rel := { bd.rel with postponed := bd'.rel.postponed }
              ra := { bd.ra with presented := none, runShape := bd'.ra.runShape } }
          ∧ (bd'.rel.postponed = true ↔ bd.rel.postponed = true
              ∨ bd.rel.state = .countdown ∧ bd.rel.instant = some (s.timestamp + 1) ∧ bd'.rd.state = .completing)
          ∧ (bd.rd.state = .idle → bd'.rd = bd.rd ∧ bd'.ra.runShape = bd.ra.runShape)
          ∧ (bd.rd.state = .reading → bd'.ra.runShape = bd.ra.runShape ∧ bd'.rd = { bd.rd with
              phase := if bd.runSweep ≤ bd.rd.phase then 0 else bd.rd.phase + 1, slotTaken := false })
          ∧ (bd.rd.state = .completing → bd.rd.phase = 0 → bd'.rd = bd.rd ∧ bd'.ra.runShape = bd.ra.runShape)
          ∧ (bd.rd.state = .completing → 0 < bd.rd.phase → bd.rd.phase < bd.runSweep →
              bd'.ra.runShape = bd.ra.runShape
                ∧ bd'.rd = { bd.rd with phase := bd.rd.phase + 1, slotTaken := false })
          ∧ (bd.rd.state = .completing → 0 < bd.rd.phase → bd.runSweep ≤ bd.rd.phase →
              bd.rel.state = .countdown → bd.rel.postponed = true →
              bd'.ra.runShape = bd.ra.runShape ∧ bd'.rd = { bd.rd with phase := 0, slotTaken := false })
          ∧ (bd.rd.state = .completing → 0 < bd.rd.phase → bd.runSweep ≤ bd.rd.phase →
              bd.rel.state ≠ .countdown ∨ bd.rel.postponed = false →
              bd'.ra.runShape = none ∧ bd'.rd = ⟨.idle, 0, 0, false, false⟩))

/-- LANE_ENABLE on a lane in OFF (R19; the polarity and the timeout are those of the written word, log 10): ACQUIRING with
the effective polarity loaded, all runs 0, and the timer running or held at zero by the reference. -/
def Obligations.EnableTakesAnOffLaneToAcquiring : Prop :=
  ∀ (n : Lane) (v : Word) (s : State) (x : Txn), s.Takes false (laneAddr n 0) x → s.SnapLaneOk →
    (s.lanes.get n).mode = .off → v.getLsbD 0 = true → ∃ t, exec (.laneEnable n v) s = .next t
      ∧ t = { s.withTxn x with lanes := s.lanes.set n (t.lanes.get n) }
      ∧ t.lanes.get n =
          { enable := true
            cfgPolarity := if v.getLsbD 1 then .inverted else .normal
            autoPolarity := v.getLsbD 2
            acqTimeout := if v.extractLsb' 8 8 = 0 then 1 else v.extractLsb' 8 8
            mode := .acquiring
            polarity := if v.getLsbD 1 then .inverted else .normal
            lockRun := 0, invRun := 0, strikes := 0, relief := 0
            lastLoss := (s.lanes.get n).lastLoss
            invalidSymbols := (s.lanes.get n).invalidSymbols
            lockLosses := (s.lanes.get n).lockLosses
            acqFailures := (s.lanes.get n).acqFailures
            acqTimer := if s.refmon.present then .running 0 ((t.lanes.get n).acqTimeout.toNat * 10) else .held 0 }

/-- LANE_ENABLE on a lane that is enabled already (R19): the word is stored and nothing else happens; the effective
polarity and the timer stay as they are. -/
def Obligations.EnableOfAnEnabledLaneOnlyStores : Prop :=
  ∀ (n : Lane) (v : Word) (s : State) (x : Txn), s.Takes false (laneAddr n 0) x →
    (s.lanes.get n).mode ≠ .off → v.getLsbD 0 = true →
    exec (.laneEnable n v) s = .next { s.withTxn x with lanes := s.lanes.set n { s.lanes.get n with
      enable := true
      cfgPolarity := if v.getLsbD 1 then .inverted else .normal
      autoPolarity := v.getLsbD 2
      acqTimeout := if v.extractLsb' 8 8 = 0 then 1 else v.extractLsb' 8 8
      invRun := if v.getLsbD 2 then (s.lanes.get n).invRun else 0 } }

/-- LANE_DISABLE (R29, R50, R177): a lane in OFF only stores the word; a lane in any other state stores it and goes to OFF,
its buffer is cleared, and a snapshot request in progress on it is aborted with LANE_DOWN. From LOCKED the loss is counted
and flagged, and a SEEN or CONFIRMED entry becomes STALE with repeat count 0 (where no earlier notice of the lane or the
roll-call unit, still on its way, moves the owning bond; log 1); the notices stay on their way as the operands say. -/
def Obligations.DisableTakesALaneToOff : Prop :=
  ∀ (n : Lane) (v : Word) (late lateEntry : Bool) (s : State) (x : Txn), s.Takes false (laneAddr n 0) x →
    v.getLsbD 0 = false →
    ((s.lanes.get n).mode = .off → exec (.laneDisable n v late lateEntry) s =
      .next { s.withTxn x with lanes := s.lanes.set n { s.lanes.get n with
        enable := false
        cfgPolarity := if v.getLsbD 1 then .inverted else .normal
        autoPolarity := v.getLsbD 2
        acqTimeout := if v.extractLsb' 8 8 = 0 then 1 else v.extractLsb' 8 8
        invRun := if v.getLsbD 2 then (s.lanes.get n).invRun else 0 } })
    ∧ ((s.lanes.get n).mode ≠ .off → ∃ t, exec (.laneDisable n v late lateEntry) s = .next t
      ∧ t.lanes.get n =
          { enable := false
            cfgPolarity := if v.getLsbD 1 then .inverted else .normal
            autoPolarity := v.getLsbD 2
            acqTimeout := if v.extractLsb' 8 8 = 0 then 1 else v.extractLsb' 8 8
            mode := .off
            polarity := (s.lanes.get n).polarity
            lockRun := 0, invRun := 0, strikes := 0, relief := 0
            lastLoss := if (s.lanes.get n).mode = .locked then some .disabled else (s.lanes.get n).lastLoss
            invalidSymbols := (s.lanes.get n).invalidSymbols
            lockLosses := if (s.lanes.get n).mode = .locked then satInc (s.lanes.get n).lockLosses
              else (s.lanes.get n).lockLosses
            acqFailures := (s.lanes.get n).acqFailures
            acqTimer := .stopped }
      ∧ State.OtherLanes n s t ∧ State.SameTime s t ∧ t.port = (s.withTxn x).port
      ∧ (t.bufs.get n).entries = [] ∧ (t.bufs.get n).side = .closed
      ∧ (s.snap.state = .armed ∨ s.snap.state = .filling → s.snap.lane = some n →
          t.snap = { s.snap with state := .aborted, abort := some .laneDown, timer := .stopped }
          ∧ t.globalFlag .snapshotEnd = true)
      ∧ ((s.snap.state ≠ .armed ∧ s.snap.state ≠ .filling) ∨ s.snap.lane ≠ some n → t.snap = s.snap)
      ∧ ((s.lanes.get n).mode ≠ .locked → t.rolls = s.rolls ∧ t.irq.lanePending = s.irq.lanePending)
      ∧ ((s.lanes.get n).mode = .locked → t.laneFlag n .lockLost = true
          ∧ (t.rolls.get n).listening = false ∧ (t.rolls.get n).openRec = none
          ∧ (late = true ∨ (∀ b, s.inFlightFrom b (.receiver n) = false) →
              lateEntry = true ∨ (∀ b, s.inFlightFrom b .rollCall = false) →
              ((s.rolls.get n).entry.status = .seen ∨ (s.rolls.get n).entry.status = .confirmed →
                (t.rolls.get n).entry = { (s.rolls.get n).entry with status := .stale, repeats := 0 })
              ∧ ((s.rolls.get n).entry.status = .empty ∨ (s.rolls.get n).entry.status = .stale →
                (t.rolls.get n).entry = (s.rolls.get n).entry))
          ∧ (late = true → lateEntry = true → ∀ b, (t.bonds.get b).inFlight =
              if s.owner n = some b then
                (s.bonds.get b).inFlight
                  ++ (if (s.rolls.get n).entry.status = .seen ∨ (s.rolls.get n).entry.status = .confirmed then
                      [.entryStatus n .stale] else [])
                  ++ [.lockLost n .disabled]
              else (s.bonds.get b).inFlight)))

/-- ACQ_TIMEOUT (R20): in ACQUIRING with its timer running and counted to its limit, the failure is counted and flagged
and the timer starts from zero with the timeout configured now; otherwise nothing happens (DEDUCED, log 3). -/
def Obligations.AcquisitionTimeoutCountsAndRestarts : Prop :=
  ∀ (n : Lane) (s : State),
    ((s.lanes.get n).mode = .acquiring → (s.lanes.get n).acqTimer.due = true →
      exec (.acqTimeout n) s = .next ({ s with lanes := s.lanes.set n { s.lanes.get n with
          acqFailures := satInc (s.lanes.get n).acqFailures
          acqTimer := .running 0 ((s.lanes.get n).acqTimeout.toNat * 10) } }.raiseLane n .acqFailed))
    ∧ ((s.lanes.get n).mode ≠ .acquiring ∨ (s.lanes.get n).acqTimer.due = false →
      exec (.acqTimeout n) s = .next s)

/-- FREQUENCY_LOCK (R21): a lane in ACQUIRING with the reference PRESENT goes to SEEKING with its timer stopped and its
runs 0; in any other case nothing happens. -/
def Obligations.FrequencyLockTakesAcquiringToSeeking : Prop :=
  ∀ (n : Lane) (s : State),
    ((s.lanes.get n).mode = .acquiring → s.refmon.present = true →
      exec (.frequencyLock n) s = .next { s with lanes := s.lanes.set n { s.lanes.get n with
        mode := .seeking, acqTimer := .stopped, lockRun := 0, invRun := 0 } })
    ∧ ((s.lanes.get n).mode ≠ .acquiring ∨ s.refmon.present = false → exec (.frequencyLock n) s = .next s)

/-- FREQUENCY_LOSS (R28, R53, R164): a lane in SEEKING or LOCKED goes to ACQUIRING with cause FREQUENCY, its timer from
zero, its polarity kept, and from LOCKED the loss counted and flagged; in ACQUIRING and OFF nothing happens. While the bond
has not yet taken the lock-lost notice, a host that reads finds LOCK_LOST without the bond's FAULT; the STALE notice of a
SEEN or CONFIRMED entry is on its way beside it (log 1). -/
def Obligations.FrequencyLossTakesALaneToAcquiring : Prop :=
  ∀ (n : Lane) (late lateEntry : Bool) (s : State),
    ((s.lanes.get n).mode.classifies = false → exec (.frequencyLoss n late lateEntry) s = .next s)
    ∧ ((s.lanes.get n).mode.classifies = true → ∃ t, exec (.frequencyLoss n late lateEntry) s = .next t
        ∧ (t.lanes.get n).mode = .acquiring ∧ (t.lanes.get n).lastLoss = some .frequency
        ∧ (t.lanes.get n).lockRun = 0 ∧ (t.lanes.get n).invRun = 0
        ∧ (t.lanes.get n).polarity = (s.lanes.get n).polarity
        ∧ (s.refmon.present = true →
            (t.lanes.get n).acqTimer = .running 0 ((s.lanes.get n).acqTimeout.toNat * 10))
        ∧ State.OtherLanes n s t ∧ State.SameTime s t ∧ t.port = s.port
        ∧ ((s.lanes.get n).mode = .locked →
            (t.lanes.get n).lockLosses = satInc (s.lanes.get n).lockLosses ∧ t.laneFlag n .lockLost = true
            ∧ (t.rolls.get n).listening = false ∧ (t.rolls.get n).openRec = none
            ∧ (late = true → lateEntry = true → t.irq.bondPending = s.irq.bondPending ∧ ∀ b, t.bonds.get b =
                if s.owner n = some b then
                  { s.bonds.get b with inFlight := (s.bonds.get b).inFlight
                      ++ (if (s.rolls.get n).entry.status = .seen ∨ (s.rolls.get n).entry.status = .confirmed then
                          [.entryStatus n .stale] else [])
                      ++ [.lockLost n .frequency] }
                else s.bonds.get b))
        ∧ ((s.lanes.get n).mode = .seeking → (t.lanes.get n).lockLosses = (s.lanes.get n).lockLosses
            ∧ t.rolls = s.rolls ∧ t.bonds = s.bonds)
        ∧ (s.snap.busy = true → s.snap.lane = some n →
            t.snap.state = .aborted ∧ t.snap.abort = some .laneDown ∧ t.snap.entries = s.snap.entries
            ∧ t.globalFlag .snapshotEnd = true))

/-- LANE_SYMBOL on a lane in OFF or ACQUIRING (R22): no symbol is handed on. -/
def Obligations.SymbolOnALaneThatDoesNotClassifyIsLost : Prop :=
  ∀ (n : Lane) (p : LinePattern) (h : Handing) (s : State),
    (s.lanes.get n).mode = .off ∨ (s.lanes.get n).mode = .acquiring → exec (.laneSymbol n p h) s = .next s

/-- LANE_SYMBOL in SEEKING (R23, R24): valid symbols lengthen the lock run, the 32nd in a row locks the lane and raises
LOCK_GAINED, and no notice of an earlier lock loss of the lane is on its way any longer (DESIGN CHOICE, log 1); bad symbols
set the run to 0, and the 16th INVERTED in a row with auto-polarity on toggles the polarity and raises
POLARITY_FLIPPED. -/
def Obligations.SeekingSymbolsLockOrFlipALane : Prop :=
  ∀ (n : Lane) (p : LinePattern) (h : Handing) (s : State), (s.lanes.get n).mode = .seeking →
    ∃ t, exec (.laneSymbol n p h) s = .next t ∧ State.OtherLanes n s t ∧ State.SameTime s t ∧ t.port = s.port
      ∧ let l := s.lanes.get n
        let l' := t.lanes.get n
        let cls := classify l.polarity p
        l'.invalidSymbols = l.invalidSymbols ∧ l'.lockLosses = l.lockLosses ∧ l'.lastLoss = l.lastLoss
        ∧ (cls.isValid = true → l.lockRun + 1 ≠ 32 →
            l'.mode = .seeking ∧ l'.lockRun = l.lockRun + 1 ∧ l'.invRun = 0 ∧ l'.polarity = l.polarity)
        ∧ (cls.isValid = true → l.lockRun + 1 = 32 →
            l'.mode = .locked ∧ l'.lockRun = 32 ∧ l'.invRun = 0 ∧ l'.strikes = 0 ∧ l'.relief = 0
            ∧ l'.polarity = l.polarity ∧ t.laneFlag n .lockGained = true ∧ (t.rolls.get n).listening = true
            ∧ ∀ b, ∀ x ∈ (t.bonds.get b).inFlight, x.losesLock n = false)
        ∧ (cls = .invalid → l'.mode = .seeking ∧ l'.lockRun = 0 ∧ l'.invRun = 0 ∧ l'.polarity = l.polarity)
        ∧ (cls = .inverted → l.autoPolarity = false →
            l'.mode = .seeking ∧ l'.lockRun = 0 ∧ l'.invRun = 0 ∧ l'.polarity = l.polarity)
        ∧ (cls = .inverted → l.autoPolarity = true → l.invRun + 1 ≠ 16 →
            l'.mode = .seeking ∧ l'.lockRun = 0 ∧ l'.invRun = l.invRun + 1 ∧ l'.polarity = l.polarity)
        ∧ (cls = .inverted → l.autoPolarity = true → l.invRun + 1 = 16 →
            l'.mode = .seeking ∧ l'.lockRun = 0 ∧ l'.invRun = 0 ∧ l'.polarity ≠ l.polarity
            ∧ t.laneFlag n .polarityFlipped = true)

/-- LANE_SYMBOL in LOCKED (R25, R27): a valid symbol lengthens the relief run, the 64th takes a strike away; a bad symbol
is a strike and is counted, and the fourth strike takes the lane to SEEKING with cause STRIKES. -/
def Obligations.LockedSymbolsStrikeOrRelieveALane : Prop :=
  ∀ (n : Lane) (p : LinePattern) (h : Handing) (s : State), (s.lanes.get n).mode = .locked →
    ∃ t, exec (.laneSymbol n p h) s = .next t ∧ State.OtherLanes n s t ∧ State.SameTime s t ∧ t.port = s.port
      ∧ let l := s.lanes.get n
        let l' := t.lanes.get n
        let cls := classify l.polarity p
        l'.polarity = l.polarity
        ∧ (cls.isValid = true → l.strikes < 4 → l.relief + 1 ≠ 64 → l' = { l with relief := l.relief + 1 })
        ∧ (cls.isValid = true → l.strikes < 4 → l.relief + 1 = 64 →
            l' = { l with relief := 0, strikes := l.strikes - 1 })
        ∧ (cls.isValid = false → l.strikes + 1 < 4 →
            l' = { l with strikes := l.strikes + 1, relief := 0, invalidSymbols := satInc l.invalidSymbols })
        ∧ (cls.isValid = false → l.strikes = 3 →
            l' = { l with
              mode := .seeking, lockRun := 0, invRun := 0, strikes := 0, relief := 0, lastLoss := some .strikes
              lockLosses := satInc l.lockLosses, invalidSymbols := satInc l.invalidSymbols }
            ∧ t.laneFlag n .lockLost = true ∧ (t.rolls.get n).listening = false)

/-- LANE_CLEAR_COUNTERS (R32, R54): the lane's three counters and its entry's two are 0, and nothing else changes. -/
def Obligations.LaneClearCountersZeroesFiveCounters : Prop :=
  ∀ (n : Lane) (s : State) (x : Txn), s.Takes false (laneAddr n 1) x →
    exec (.laneClearCounters n) s = .next { s.withTxn x with
      lanes := s.lanes.set n { s.lanes.get n with invalidSymbols := 0, lockLosses := 0, acqFailures := 0 }
      rolls := s.rolls.set n { s.rolls.get n with
        entry := { (s.rolls.get n).entry with checkFailures := 0, malformed := 0 } } }

/-! ## The announcement table -/

/-- A valid record identical to the stored record of a CONFIRMED entry moves the capture timestamp alone, with no flag and
no notice. -/
def Obligations.ConfirmedEntryTakesIdenticalRecord : Prop :=
  ∀ (n : Lane) (late : Bool) (s : State) (r : Record), (s.rolls.get n).entry.status = .confirmed →
    (s.rolls.get n).entry.repeats = 3 → (s.rolls.get n).entry.record = r →
    takeOutcome n (.valid r) late s = { s with rolls := s.rolls.set n { s.rolls.get n with
      entry := { (s.rolls.get n).entry with captured := s.timestamp } } }

/-- A record that fails its check counts a check failure and raises ANNOUNCE_BAD, in every status, and changes nothing
else. -/
def Obligations.CheckFailureCountsAndFlags : Prop :=
  ∀ (n : Lane) (late : Bool) (s : State),
    takeOutcome n .checkFailure late s = { s with
      rolls := s.rolls.set n { s.rolls.get n with
        entry := { (s.rolls.get n).entry with checkFailures := satInc (s.rolls.get n).entry.checkFailures } }
      irq := { s.irq with lanePending := s.irq.lanePending.set n (s.irq.lanePending.get n ||| 64) } }

/-- LANE_SYMBOL that completes a record on a LOCKED lane (R43 to R49, R53): the entry becomes what the outcome and its status
give, the flags follow, and a change of status sends its owning bond a notice that carries the new status. The lane has no
owning bond, or the notice stays on its way (log 1) and the symbol moves nothing in a CLOSED write side. -/
def Obligations.CompleteRecordMovesTheEntry : Prop :=
  ∀ (n : Lane) (u : Word) (h : Handing) (s : State) (rec : OpenRecord),
    (s.lanes.get n).mode = .locked → (s.lanes.get n).polarity = .normal → (s.lanes.get n).strikes < 4 →
    s.owner n = none ∨ (h.lateEntry = true ∧ (s.bufs.get n).side = .closed ∧ (s.bufs.get n).markMemory = none) →
    (s.rolls.get n).openRec = some rec → (⟨rec.words ++ [u], rec.sum + u⟩ : OpenRecord).complete = true →
    ∃ t, exec (.laneSymbol n (.data u) h) s = .next t ∧ (t.rolls.get n).openRec = none
      ∧ State.OtherLanes n s t ∧ State.SameTime s t ∧ t.port = s.port
      ∧ (∀ b, t.bonds.get b =
          if s.owner n = some b ∧ (t.rolls.get n).entry.status ≠ (s.rolls.get n).entry.status then
            { s.bonds.get b with
              inFlight := (s.bonds.get b).inFlight ++ [.entryStatus n (t.rolls.get n).entry.status] }
          else s.bonds.get b)
      ∧ (∀ m, m ≠ n → t.rolls.get m = s.rolls.get m ∧ t.bufs.get m = s.bufs.get m)
      ∧ let e := (s.rolls.get n).entry
        let e' := (t.rolls.get n).entry
        let wordB := (rec.words ++ [u]).getD 1 0
        let r := recordOfWords ((rec.words ++ [u]).getD 0 0) wordB
          (((rec.words ++ [u]).drop 2).take (wordB.extractLsb' 8 3).toNat)
        (rec.sum + u ≠ 0 → e' = { e with checkFailures := satInc e.checkFailures } ∧ t.laneFlag n .announceBad = true)
        ∧ (rec.sum + u = 0 → wordB.extractLsb' 8 3 = 7 ∨ r.common.shape.lanes ≤ r.logicalIndex.toNat →
            e' = { e with malformed := satInc e.malformed } ∧ t.laneFlag n .announceBad = true)
        ∧ (rec.sum + u = 0 → wordB.extractLsb' 8 3 ≠ 7 → r.logicalIndex.toNat < r.common.shape.lanes →
            (e.status = .seen → e.record = r → e.repeats = 1 →
              e' = { e with repeats := 2, captured := s.timestamp })
            ∧ (e.status = .seen → e.record = r → e.repeats = 2 →
              e' = { e with status := .confirmed, repeats := 3, captured := s.timestamp }
              ∧ t.laneFlag n .announceConfirmed = true)
            ∧ (e.status = .confirmed → e.record = r → e.repeats = 3 → e' = { e with captured := s.timestamp })
            ∧ (e.status = .empty ∨ e.status = .stale ∨ e.record ≠ r →
              e' = { e with status := .seen, repeats := 1, record := r, captured := s.timestamp })
            ∧ (e.status = .confirmed → e.record ≠ r → t.laneFlag n .announceChanged = true))

/-! ## Elastic buffers -/

/-- LANE_SYMBOL on a LOCKED lane whose write side is OPEN at a data position (R102, R103): DATA is written untainted, a bad
symbol as a tainted unit of value 0, and the sweep count rises. A lane with a record open is left out, for the record's
outcome may move the bond, and so is the fourth strike. -/
def Obligations.OpenWriteSideWritesUnits : Prop :=
  ∀ (n : Lane) (p : LinePattern) (h : Handing) (s : State) (sweep : Nat),
    (s.lanes.get n).mode = .locked → (s.lanes.get n).strikes < 3 → (s.rolls.get n).openRec = none →
    (s.bufs.get n).side = .opened → s.ownerSweep n = some sweep → (s.bufs.get n).sweepCount < sweep →
    (s.bufs.get n).entries.length < 1024 →
    (∀ u, classify (s.lanes.get n).polarity p = .data u → ∃ t, exec (.laneSymbol n p h) s = .next t
      ∧ (t.bufs.get n).entries = (s.bufs.get n).entries ++ [.unit u false]
      ∧ (t.bufs.get n).sweepCount = (s.bufs.get n).sweepCount + 1 ∧ (t.bufs.get n).side = .opened
      ∧ State.OtherLanes n s t ∧ State.SameTime s t ∧ t.port = s.port ∧ t.bonds = s.bonds
      ∧ ∀ m, m ≠ n → t.bufs.get m = s.bufs.get m ∧ t.rolls.get m = s.rolls.get m)
    ∧ ((classify (s.lanes.get n).polarity p).isValid = false → ∃ t, exec (.laneSymbol n p h) s = .next t
      ∧ (t.bufs.get n).entries = (s.bufs.get n).entries ++ [.unit 0 true]
      ∧ (t.bufs.get n).sweepCount = (s.bufs.get n).sweepCount + 1 ∧ (t.bufs.get n).side = .opened
      ∧ State.OtherLanes n s t ∧ State.SameTime s t ∧ t.port = s.port ∧ t.bonds = s.bonds
      ∧ ∀ m, m ≠ n → t.bufs.get m = s.bufs.get m ∧ t.rolls.get m = s.rolls.get m)

/-- LANE_SYMBOL that brings the last start mark of a bond in ALIGNING in FREE mode with the skew within the limit: the
release instant is the latest arrival plus the release delay plus 4, modulo 2^32, set as the release unit goes to
COUNTDOWN; and an EPOCH_EVENT leaves every bond in FREE mode as it is, in any state. -/
def Obligations.FreeReleaseInstantAndEpochs : Prop :=
  (∀ (n : Lane) (b : BondId) (i : Index) (u : Word) (p : LinePattern) (h : Handing) (s : State) (at' early : Word32)
      (skew : Nat),
    (s.lanes.get n).mode = .locked → (s.lanes.get n).strikes < 4 → classify (s.lanes.get n).polarity p = .data u →
    s.owner n = some b → (s.bonds.get b).state = .aligning → (s.bonds.get b).cfg.releaseMode = .free →
    (s.bonds.get b).rel.state = .markWait → (s.bonds.get b).indexOf n = some i → i.val < (s.bonds.get b).laneCount →
    (s.bonds.get b).rel.go = true →
    (s.bufs.get n).side = .watching → (s.bufs.get n).markMemory = some at' →
    ((s.bonds.get b).rel.recordArrival i at').allArrived (s.bonds.get b).laneCount = true →
    ((s.bonds.get b).rel.recordArrival i at').earliest = some early →
    ((s.bonds.get b).rel.recordArrival i at').maxOffset early (s.bonds.get b).laneCount = skew →
    skew ≤ (s.bonds.get b).cfg.skewLimit.toNat →
    ∃ t, exec (.laneSymbol n p h) s = .next t
      ∧ (t.bonds.get b).rel.state = .countdown ∧ (t.bonds.get b).rel.skew = some (BitVec.ofNat 32 skew)
      ∧ (t.bonds.get b).rel.instant = some ((early + BitVec.ofNat 32 skew)
          + (s.bonds.get b).cfg.releaseDelay.setWidth 32 + 4)
      ∧ (t.bonds.get b).state = .aligning ∧ (t.bonds.get b).cfg = (s.bonds.get b).cfg
      ∧ (t.bufs.get n).side = .opened ∧ (t.bufs.get n).entries = [.unit u false]
      ∧ State.OtherBonds b s t ∧ State.OtherLanes n s t ∧ State.SameTime s t ∧ t.port = s.port
      ∧ ∀ m, m ≠ n → t.bufs.get m = s.bufs.get m ∧ t.rolls.get m = s.rolls.get m)
  ∧ (∀ (late : List BondId) (s : State), ∃ t, exec (.epochEvent late) s = .next t
      ∧ ∀ b, (s.bonds.get b).cfg.releaseMode = .free → t.bonds.get b = s.bonds.get b)

/-! ## Call lines and bond configuration -/

/-- CALL_WORD_SLOT (R14, R15, R100, R127): every sender sends its bond's current call word; the sequence rises exactly
when the content differs; the line word and the GO indication follow; the slot's 20 cells carry the word between a high
start cell, odd parity, a high end cell and a low guard cell (R192). One that comes off the schedule of R13 begins a slot all
the same and leaves the schedule as it is, by the model's choice (DESIGN CHOICE, log 31). -/
def Obligations.CallWordSlotSendsTheCurrentWord : Prop :=
  (∀ s : State, ∃ t, exec .callWordSlot s = .next t
    ∧ t = { s with bonds := t.bonds, lineStarted := true }
    ∧ ∀ b, t.bonds.get b = { s.bonds.get b with
          lastSent := (s.bonds.get b).callWord
          callSeq := if (s.bonds.get b).callWord = (s.bonds.get b).lastSent then (s.bonds.get b).callSeq
            else (s.bonds.get b).callSeq + 1
          lineKind := (s.bonds.get b).callWord.kind
          lineIndex := (s.bonds.get b).callWord.index
          rel := { (s.bonds.get b).rel with go := (s.bonds.get b).callWord.kind == .go } }
        ∧ t.callLine b = callFrame (s.bonds.get b).callWord)
  ∧ (∀ w : CallWord, (callFrame w).length = 20 ∧ (callFrame w)[0]? = some true ∧ (callFrame w)[18]? = some true
      ∧ (callFrame w)[19]? = some false
      ∧ (∀ i : Fin 16, (callFrame w)[1 + i.val]? = some (w.bits.getLsbD (15 - i.val)))
      ∧ (((callFrame w).drop 1).take 17).count true % 2 = 1)

/-- The current call word (R12, R77, R78, R80, R83, R88, R94, R125, R130): its kind by the bond's state and mend phase,
its bond_tag from the active profile or else the expected profile, its index k for MOVE, REJOIN and RESUME alone. -/
def Obligations.CurrentCallWordFollowsTheBond : Prop :=
  ∀ bd : Bond,
    (∀ p, bd.profile = some p → bd.callWord.tag = p.bondTag) ∧ (bd.profile = none → bd.callWord.tag = bd.cfg.expTag)
    ∧ (bd.state = .disabled → bd.callWord.kind = .quiet ∧ bd.callWord.index = 0)
    ∧ (bd.state = .holding ∨ bd.state = .halted → bd.callWord.kind = .hold ∧ bd.callWord.index = 0)
    ∧ (bd.state = .calling → bd.callWord.kind = .call ∧ bd.callWord.index = 0)
    ∧ (bd.state = .aligning ∨ bd.state = .running → bd.callWord.kind = .go ∧ bd.callWord.index = 0)
    ∧ (∀ m, bd.state = .mending → bd.mend = some m →
        bd.callWord.index = m.k
        ∧ (m.phase = .announce → m.method = .move → bd.callWord.kind = .move)
        ∧ (m.phase = .announce → m.method = .rejoin → bd.callWord.kind = .rejoin)
        ∧ (m.phase = .seat → bd.callWord.kind = .resume))

/-- BOND_CONFIG_WRITE (R57, R58, R61, R62): in DISABLED the word is stored and reads back as written, with the positions
that hold no field 0, and the other words keep their values; in every other state the write is refused: WRITE_REFUSED
and the refused address, and nothing else. -/
def Obligations.ConfigurationWritesStoreOrAreRefused : Prop :=
  ∀ (b : BondId) (off : Fin 10) (v : Word) (s : State) (x : Txn), s.Takes false (bondAddr b off.val) x →
    ((s.bonds.get b).state = .disabled → ∃ t, exec (.bondConfigWrite b off v) s = .next t
      ∧ t = { s.withTxn x with bonds := s.bonds.set b { s.bonds.get b with cfg := (t.bonds.get b).cfg } }
      ∧ (∀ off' : Fin 10, off' ≠ off →
          (t.bonds.get b).cfg.word off'.val = (s.bonds.get b).cfg.word off'.val)
      ∧ (t.bonds.get b).cfg.word off.val = v &&&
          (match off.val with
           | 0 => if v.getLsbD 8 then 0x0FFF else 0x00FF
           | 1 => 0x0FFF | 2 => 0xFFF8 | 3 => 0xF87F | 4 => 0x0FFF | 5 => 0x03FF | 6 | 7 | 8 => 0xFFFF
           | _ => 0x000F))
    ∧ ((s.bonds.get b).state ≠ .disabled →
      exec (.bondConfigWrite b off v) s = .next { s with
        port := { s.port with txn := x, refused := some (bondAddr b off.val) }
        irq := { s.irq with globalPending := s.irq.globalPending ||| 8 } })

/-! ## Commands -/

/-- START refused (R67, R68): outside DISABLED with REFUSED_STATE; in DISABLED with the first of the seven reasons that
holds and its details. Only the last command result changes. -/
def Obligations.StartIsRefusedByTheFirstReason : Prop :=
  ∀ (b : BondId) (s : State) (x : Txn), s.Takes false (bondAddr b 10) x →
    let bd := s.bonds.get b
    let cfg := bd.cfg
    let noMembers := cfg.members = 0
    let taken := ∃ n c, c ≠ b ∧ cfg.names n = true ∧ (s.bonds.get c).claims n = true
    let spareMember := ∃ n, cfg.spare = some n ∧ cfg.isMember n = true
    let memberOff := ∃ n, cfg.isMember n = true ∧ (s.lanes.get n).enable = false
    let count := cfg.matchMode = .exact ∧ cfg.expShape.lanes ≠ cfg.memberList.length
    let unusable := cfg.matchMode = .exact ∧ ¬ cfg.expShape.channels ∣ cfg.expShape.lanes * cfg.expShape.sweep
    let timing := 768 < cfg.skewLimit.toNat ∨ cfg.callTimeout = 0 ∨ cfg.alignTimeout = 0 ∨ cfg.mendTimeout = 0
      ∨ 7 < cfg.retrainLimit.toNat
    (bd.state ≠ .disabled → exec (.start b) s = .next { s.withTxn x with bonds := s.bonds.set b { bd with
        result := ⟨some .start, some .refusedState, some bd.state, none, none, none, none, bd.result.seq + 1⟩ } })
    ∧ (bd.state = .disabled →
        (noMembers ∨ taken ∨ spareMember ∨ memberOff ∨ count ∨ unusable ∨ timing) → ∃ t r,
        exec (.start b) s = .next t
        ∧ t = { s.withTxn x with bonds := s.bonds.set b { bd with result := r } }
        ∧ r.command = some .start ∧ r.result = some .refusedConfig ∧ r.stateAt = some .disabled
        ∧ r.seq = bd.result.seq + 1
        ∧ (noMembers → r.reason = some .noMembers)
        ∧ (¬ noMembers → taken → r.reason = some .laneTaken ∧ ∃ n c, r.lane = some n ∧ r.other = some c ∧ c ≠ b
            ∧ cfg.names n = true ∧ (s.bonds.get c).claims n = true
            ∧ ∀ m, m < n → cfg.names m = true → ∀ c', c' ≠ b → (s.bonds.get c').claims m = false)
        ∧ (¬ noMembers → ¬ taken → spareMember → r.reason = some .spareIsMember ∧ r.lane = cfg.spare)
        ∧ (¬ noMembers → ¬ taken → ¬ spareMember → memberOff → r.reason = some .memberOff
            ∧ ∃ n, r.lane = some n ∧ cfg.isMember n = true ∧ (s.lanes.get n).enable = false
              ∧ ∀ m, m < n → cfg.isMember m = true → (s.lanes.get m).enable = true)
        ∧ (¬ noMembers → ¬ taken → ¬ spareMember → ¬ memberOff → count → r.reason = some .countMismatch)
        ∧ (¬ noMembers → ¬ taken → ¬ spareMember → ¬ memberOff → ¬ count → unusable →
            r.reason = some .profileUnusable)
        ∧ (¬ noMembers → ¬ taken → ¬ spareMember → ¬ memberOff → ¬ count → ¬ unusable →
            r.reason = some .timingRange ∧ r.field = cfg.rangeFailure))

/-- START that passes its check (R63, R67, R68): the bond enters HOLDING with its counts 0 and its buffers cleared (R78,
R121), or CALLING at once with every member LOCKED, and then the member entries are cleared (R80), with an EMPTY notice
from each that was not EMPTY (R51, R53; on its way, log 1). -/
def Obligations.StartPassesIntoHolding : Prop :=
  ∀ (b : BondId) (s : State) (x : Txn), s.Takes false (bondAddr b 10) x →
    (s.bonds.get b).state = .disabled → (s.bonds.get b).cfg.members ≠ 0 →
    (∀ n c, c ≠ b → (s.bonds.get b).cfg.names n = true → (s.bonds.get c).claims n = false) →
    (∀ n, (s.bonds.get b).cfg.spare = some n → (s.bonds.get b).cfg.isMember n = false) →
    (∀ n, (s.bonds.get b).cfg.isMember n = true → (s.lanes.get n).enable = true) →
    ((s.bonds.get b).cfg.matchMode = .exact →
      (s.bonds.get b).cfg.expShape.lanes = (s.bonds.get b).cfg.memberList.length) →
    ((s.bonds.get b).cfg.matchMode = .exact → (s.bonds.get b).cfg.expShape.channels ∣
      (s.bonds.get b).cfg.expShape.lanes * (s.bonds.get b).cfg.expShape.sweep) →
    (s.bonds.get b).cfg.skewLimit.toNat ≤ 768 → (s.bonds.get b).cfg.callTimeout ≠ 0 →
    (s.bonds.get b).cfg.alignTimeout ≠ 0 → (s.bonds.get b).cfg.mendTimeout ≠ 0 →
    (s.bonds.get b).cfg.retrainLimit.toNat ≤ 7 → ∃ t, exec (.start b) s = .next t
      ∧ t = { s.withTxn x with bonds := s.bonds.set b (t.bonds.get b), bufs := t.bufs, rolls := t.rolls }
      ∧ (t.bonds.get b).state = (if s.membersLocked b then .calling else .holding)
      ∧ (t.bonds.get b).cfg = (s.bonds.get b).cfg ∧ (t.bonds.get b).retrain = 0 ∧ (t.bonds.get b).settle = 0
      ∧ (t.bonds.get b).profile = none ∧ (t.bonds.get b).map = none
      ∧ (t.bonds.get b).ra.held = none ∧ (t.bonds.get b).rel.state = .idle
      ∧ (t.bonds.get b).rel.go = (s.bonds.get b).rel.go
      ∧ (t.bonds.get b).result = ⟨some .start, some .done, some .disabled, none, none, none, none, (s.bonds.get b).result.seq + 1⟩
      ∧ (t.bonds.get b).fault = (s.bonds.get b).fault ∧ (t.bonds.get b).faultCount = (s.bonds.get b).faultCount
      ∧ (t.bonds.get b).mend = (s.bonds.get b).mend
      ∧ (s.membersLocked b = false → (t.bonds.get b).holdTimer =
          (if (t.bonds.get b).cfg.holdTimeout = 0 then .stopped else .running 0 ((t.bonds.get b).cfg.holdTimeout.toNat * 1000)))
      ∧ (s.membersLocked b = true → (t.bonds.get b).holdTimer = .stopped
          ∧ (t.bonds.get b).callTimer = .running 0 ((t.bonds.get b).cfg.callTimeout.toNat * 1000))
      ∧ (∀ n, t.bufs.get n = if (t.bonds.get b).cfg.names n then { s.bufs.get n with entries := [], side := .closed, sweepCount := 0 }
          else s.bufs.get n)
      ∧ (t.bonds.get b).inFlight = (s.bonds.get b).inFlight ++ (if s.membersLocked b = true then
          (allLanes.filter fun n => (s.bonds.get b).cfg.isMember n && (s.rolls.get n).entry.status != .empty).map
            fun n => .entryStatus n .empty else [])
      ∧ (∀ n, t.rolls.get n = if s.membersLocked b = true ∧ (t.bonds.get b).cfg.isMember n = true then
            { s.rolls.get n with entry := { (s.rolls.get n).entry with
              status := .empty, repeats := 0, record := Record.zero, captured := 0 } }
          else s.rolls.get n)

/-- STOP (R69, R74): in DISABLED only the result is written; from any other state the bond is DISABLED at once, its timers
stop, its buffers are cleared, its call word is QUIET, its profile, map and arrival offsets are absent, and what the rule
keeps is kept: the configuration, the fault record and count, the retrain and settle counts, the bond's five counters, the
held row, the last-sent word and the call sequence. -/
def Obligations.StopTakesABondToDisabled : Prop :=
  ∀ (b : BondId) (s : State) (x : Txn), s.Takes false (bondAddr b 10) x →
    ((s.bonds.get b).state = .disabled → exec (.stop b) s = .next { s.withTxn x with
      bonds := s.bonds.set b { s.bonds.get b with
        result := ⟨some .stop, some .done, some .disabled, none, none, none, none, (s.bonds.get b).result.seq + 1⟩ } })
    ∧ ((s.bonds.get b).state ≠ .disabled → ∃ t, exec (.stop b) s = .next t
      ∧ t = { s.withTxn x with bonds := s.bonds.set b (t.bonds.get b), bufs := t.bufs }
      ∧ (t.bonds.get b).state = .disabled ∧ (t.bonds.get b).profile = none ∧ (t.bonds.get b).map = none
      ∧ (t.bonds.get b).callWord = ⟨.quiet, (t.bonds.get b).cfg.expTag, 0⟩
      ∧ (t.bonds.get b).holdTimer = .stopped ∧ (t.bonds.get b).callTimer = .stopped
      ∧ (t.bonds.get b).alignTimer = .stopped ∧ (t.bonds.get b).mendTimer = .stopped
      ∧ (t.bonds.get b).result = ⟨some .stop, some .done, some (s.bonds.get b).state, none, none, none, none,
          (s.bonds.get b).result.seq + 1⟩
      ∧ (t.bonds.get b).cfg = (s.bonds.get b).cfg ∧ (t.bonds.get b).fault = (s.bonds.get b).fault
      ∧ (t.bonds.get b).faultCount = (s.bonds.get b).faultCount ∧ (t.bonds.get b).retrain = (s.bonds.get b).retrain
      ∧ (t.bonds.get b).settle = (s.bonds.get b).settle ∧ (t.bonds.get b).mends = (s.bonds.get b).mends
      ∧ (t.bonds.get b).epochDrifts = (s.bonds.get b).epochDrifts
      ∧ (t.bonds.get b).ra.sweeps = (s.bonds.get b).ra.sweeps
      ∧ (t.bonds.get b).ra.fillSweeps = (s.bonds.get b).ra.fillSweeps
      ∧ (t.bonds.get b).ra.taintedRows = (s.bonds.get b).ra.taintedRows
      ∧ (∀ i, (t.bonds.get b).offsets.get i = none) ∧ (t.bonds.get b).inFlight = (s.bonds.get b).inFlight
      ∧ (t.bonds.get b).ra.held = (s.bonds.get b).ra.held ∧ (t.bonds.get b).lastSent = (s.bonds.get b).lastSent
      ∧ (t.bonds.get b).callSeq = (s.bonds.get b).callSeq ∧ (t.bonds.get b).rel.state = .idle
      ∧ (t.bonds.get b).rel.go = (s.bonds.get b).rel.go
      ∧ ((s.bonds.get b).state = .mending →
          (t.bonds.get b).mend = (s.bonds.get b).mend.map fun m => { m with outcome := .failed })
      ∧ ((s.bonds.get b).state ≠ .mending → (t.bonds.get b).mend = (s.bonds.get b).mend)
      ∧ ((s.bonds.get b).rd.state = .completing → (s.bonds.get b).rd.phase ≠ 0 →
          (t.bonds.get b).rd = (s.bonds.get b).rd)
      ∧ ((s.bonds.get b).rd.state = .reading →
          (s.bonds.get b).rd.inSweep (s.bonds.get b).runSweep = true → (t.bonds.get b).rd.state = .completing)
      ∧ ((s.bonds.get b).rd.state = .reading →
          (s.bonds.get b).rd.inSweep (s.bonds.get b).runSweep = false → (t.bonds.get b).rd.state = .idle
            ∧ (t.bonds.get b).rd.phase = 0)
      ∧ (∀ n, t.bufs.get n = if (t.bonds.get b).cfg.names n then { s.bufs.get n with entries := [], side := .closed, sweepCount := 0 }
          else s.bufs.get n))

/-- RETRAIN (R70, R73, R76): refused in DISABLED with only the result written; from any other state the counts are 0 and
the bond enters HOLDING, or CALLING at once with every member LOCKED and their entries cleared (the EMPTY notices on their
way, log 1), with no fault recorded; its timers are stopped or start afresh, so that an expiry taken after it does not
happen. -/
def Obligations.RetrainTakesABondToHolding : Prop :=
  ∀ (b : BondId) (s : State) (x : Txn), s.Takes false (bondAddr b 10) x →
    ((s.bonds.get b).state = .disabled → exec (.retrain b) s = .next { s.withTxn x with
      bonds := s.bonds.set b { s.bonds.get b with result :=
        ⟨some .retrain, some .refusedState, some .disabled, none, none, none, none, (s.bonds.get b).result.seq + 1⟩ } })
    ∧ ((s.bonds.get b).state ≠ .disabled → ∃ t, exec (.retrain b) s = .next t
      ∧ t = { s.withTxn x with bonds := s.bonds.set b (t.bonds.get b), bufs := t.bufs, rolls := t.rolls }
      ∧ (t.bonds.get b).state = (if s.membersLocked b then .calling else .holding) ∧ (t.bonds.get b).retrain = 0
      ∧ (t.bonds.get b).settle = 0
      ∧ (t.bonds.get b).profile = none ∧ (t.bonds.get b).map = none ∧ (t.bonds.get b).cfg = (s.bonds.get b).cfg
      ∧ (t.bonds.get b).result = ⟨some .retrain, some .done, some (s.bonds.get b).state, none, none, none, none,
          (s.bonds.get b).result.seq + 1⟩
      ∧ (t.bonds.get b).fault = (s.bonds.get b).fault ∧ (t.bonds.get b).faultCount = (s.bonds.get b).faultCount
      ∧ ((s.bonds.get b).state = .mending →
          (t.bonds.get b).mend = (s.bonds.get b).mend.map fun m => { m with outcome := .failed })
      ∧ (s.membersLocked b = false → (t.bonds.get b).holdTimer =
          (if (t.bonds.get b).cfg.holdTimeout = 0 then .stopped else .running 0 ((t.bonds.get b).cfg.holdTimeout.toNat * 1000)))
      ∧ (∀ n, t.bufs.get n = if (t.bonds.get b).cfg.names n then { s.bufs.get n with entries := [], side := .closed, sweepCount := 0 }
          else s.bufs.get n)
      ∧ (t.bonds.get b).inFlight = (s.bonds.get b).inFlight ++ (if s.membersLocked b = true then
          (allLanes.filter fun n => (s.bonds.get b).cfg.isMember n && (s.rolls.get n).entry.status != .empty).map
            fun n => .entryStatus n .empty else [])
      ∧ (∀ n, t.rolls.get n = if s.membersLocked b = true ∧ (t.bonds.get b).cfg.isMember n = true then
            { s.rolls.get n with entry := { (s.rolls.get n).entry with
              status := .empty, repeats := 0, record := Record.zero, captured := 0 } }
          else s.rolls.get n)
      ∧ (s.membersLocked b = true → (t.bonds.get b).holdTimer = .stopped
          ∧ (t.bonds.get b).callTimer = .running 0 ((t.bonds.get b).cfg.callTimeout.toNat * 1000))
      ∧ (t.bonds.get b).alignTimer = .stopped ∧ (t.bonds.get b).mendTimer = .stopped
      ∧ ((s.bonds.get b).cfg.callTimeout ≠ 0 → exec (.holdTimeout b) t = .next t ∧ exec (.callTimeout b) t = .next t
          ∧ exec (.alignTimeout b) t = .next t ∧ exec (.mendTimeout b) t = .next t))

/-- CLEAR_FAULT empties the record and the count in every state, and changes nothing else but the result; a fault taken
after it fills the record with a count of 0. -/
def Obligations.ClearFaultEmptiesTheRecord : Prop :=
  ∀ (b : BondId) (s : State) (x : Txn), s.Takes false (bondAddr b 10) x → ∃ t,
    exec (.clearFault b) s = .next t
    ∧ t = { s.withTxn x with bonds := s.bonds.set b { s.bonds.get b with
        fault := none, faultCount := 0
        result := ⟨some .clearFault, some .done, some (s.bonds.get b).state, none, none, none, none,
          (s.bonds.get b).result.seq + 1⟩ } }
    ∧ ∀ cause lane index detail,
        ((takeFault b cause lane index detail t).bonds.get b).fault.isSome = true
        ∧ ((takeFault b cause lane index detail t).bonds.get b).faultCount = 0

/-- CLEAR_COUNTERS sets the bond's five counters to 0 in every state, and changes nothing else but the result. -/
def Obligations.ClearCountersZeroesFiveCounters : Prop :=
  ∀ (b : BondId) (s : State) (x : Txn), s.Takes false (bondAddr b 10) x →
    exec (.clearCounters b) s = .next { s.withTxn x with bonds := s.bonds.set b { s.bonds.get b with
      mends := 0, epochDrifts := 0
      ra := { (s.bonds.get b).ra with sweeps := 0, fillSweeps := 0, taintedRows := 0 }
      result := ⟨some .clearCounters, some .done, some (s.bonds.get b).state, none, none, none, none,
        (s.bonds.get b).result.seq + 1⟩ } }

/-! ## Timers and faults of a bond -/

/-- HOLD_TIMEOUT, CALL_TIMEOUT, ALIGN_TIMEOUT and MEND_TIMEOUT (R76, R79, R86, R87, R126, R95): with the timer running in
its state and counted to its limit, the fault of that name, with the lowest-numbered member that is not ready, the member
of lowest logical index without a start mark, or the joining lane and k; otherwise nothing (DEDUCED, log 3). -/
def Obligations.BondTimeoutsAreFaults : Prop :=
  ∀ (b : BondId) (s : State),
    ((s.bonds.get b).state = .holding → (s.bonds.get b).holdTimer.due = true → ∃ t lane,
      exec (.holdTimeout b) s = .next t ∧ FaultTaken b .holdTimeout lane none none s t
      ∧ (∀ n, lane = some n → (s.bonds.get b).cfg.isMember n = true ∧ (s.lanes.get n).mode ≠ .locked
          ∧ ∀ m, m < n → (s.bonds.get b).cfg.isMember m = true → (s.lanes.get m).mode = .locked)
      ∧ (lane = none → s.membersLocked b = true))
    ∧ ((s.bonds.get b).state ≠ .holding ∨ (s.bonds.get b).holdTimer.due = false →
        exec (.holdTimeout b) s = .next s)
    ∧ ((s.bonds.get b).state = .calling → (s.bonds.get b).callTimer.due = true → ∃ t lane,
      exec (.callTimeout b) s = .next t ∧ FaultTaken b .callTimeout lane none none s t
      ∧ (∀ n, lane = some n →
          (s.bonds.get b).cfg.isMember n = true ∧ (s.rolls.get n).entry.status ≠ .confirmed
          ∧ ∀ m, m < n → (s.bonds.get b).cfg.isMember m = true → (s.rolls.get m).entry.status = .confirmed)
      ∧ (lane = none → s.membersConfirmed b = true))
    ∧ ((s.bonds.get b).state ≠ .calling ∨ (s.bonds.get b).callTimer.due = false →
        exec (.callTimeout b) s = .next s)
    ∧ ((s.bonds.get b).state = .aligning → (s.bonds.get b).alignTimer.due = true → ∃ t index,
      exec (.alignTimeout b) s = .next t
      ∧ FaultTaken b .alignTimeout (index.bind (s.bonds.get b).laneOf) index none s t
      ∧ (∀ i, index = some i → i.val < (s.bonds.get b).laneCount ∧ (s.bonds.get b).rel.arrivals.get i = none
          ∧ ∀ j, j < i → ((s.bonds.get b).rel.arrivals.get j).isSome = true)
      ∧ (index = none → ∀ i, i.val < (s.bonds.get b).laneCount →
          ((s.bonds.get b).rel.arrivals.get i).isSome = true))
    ∧ ((s.bonds.get b).state ≠ .aligning ∨ (s.bonds.get b).alignTimer.due = false →
        exec (.alignTimeout b) s = .next s)
    ∧ (∀ m, (s.bonds.get b).state = .mending → (s.bonds.get b).mendTimer.due = true →
      (s.bonds.get b).mend = some m → ∃ t, exec (.mendTimeout b) s = .next t
      ∧ FaultTaken b .mendTimeout (some m.joining) (some m.k) none s t)
    ∧ ((s.bonds.get b).state ≠ .mending ∨ (s.bonds.get b).mendTimer.due = false →
        exec (.mendTimeout b) s = .next s)

/-- FREQUENCY_LOSS of a LOCKED member of a RUNNING bond (R89, R93, R122 to R125): with mending on the bond enters MENDING,
with the mend record filled, its reference the member of lowest logical index other than k (absent with one lane), and no
fault; with mending off it is the fault LANE_LOST. The bond takes the notice in the same step, and no earlier notice of the
lane is on its way, nor of the roll-call unit unless the lane's STALE notice stays on its way too (log 1). That the clear
of a REJOIN finds the entry STALE, so that a STALE notice goes before the EMPTY one, is the model's choice: the roll-call
unit takes the loss first, where R52 allows the other order (DESIGN CHOICE, log 32). -/
def Obligations.LaneFaultInRunningMendsOrFaults : Prop :=
  ∀ (n : Lane) (b : BondId) (k : Index) (lateEntry : Bool) (s : State),
    (s.lanes.get n).mode = .locked → s.owner n = some b → (s.bonds.get b).state = .running →
    (s.bonds.get b).cfg.isMember n = true → (s.bonds.get b).indexOf n = some k →
    s.inFlightFrom b (.receiver n) = false → lateEntry = true ∨ s.inFlightFrom b .rollCall = false →
    ((s.bonds.get b).cfg.mending = true → ∃ t m, exec (.frequencyLoss n false lateEntry) s = .next t
      ∧ (t.bonds.get b).state = .mending ∧ (t.bonds.get b).mend = some m
      ∧ m.trigger = n ∧ m.k = k ∧ m.cause = .frequency ∧ m.phase = .announce ∧ m.outcome = .inProgress
      ∧ m.offset = none ∧ (t.bonds.get b).settle = 0
      ∧ ((s.bonds.get b).laneCount ≤ 1 → m.reference = none)
      ∧ (∀ i : Index, 2 ≤ (s.bonds.get b).laneCount → i ≠ k → (∀ j, j < i → j = k) →
          m.reference = (s.bonds.get b).laneOf i)
      ∧ (t.bonds.get b).inFlight = (s.bonds.get b).inFlight
          ++ (if lateEntry = true ∧ ((s.rolls.get n).entry.status = .seen ∨ (s.rolls.get n).entry.status = .confirmed) then
              [.entryStatus n .stale] else [])
          ++ (if (s.rolls.get m.joining).entry.status = .empty then [] else [.entryStatus m.joining .empty])
      ∧ (t.bonds.get b).mendTimer = .running 0 ((s.bonds.get b).cfg.mendTimeout.toNat * 1000)
      ∧ ((s.bonds.get b).cfg.spare = none → m.method = .rejoin ∧ m.joining = n)
      ∧ (∀ sp p, (s.bonds.get b).cfg.spare = some sp → sp ≠ n → (s.bonds.get b).profile = some p →
          ((s.lanes.get sp).mode = .locked → p.spareCapable = true → m.method = .move ∧ m.joining = sp)
          ∧ ((s.lanes.get sp).mode ≠ .locked ∨ p.spareCapable = false → m.method = .rejoin ∧ m.joining = n))
      ∧ (t.bufs.get n).entries = [] ∧ (t.bufs.get n).side = .closed
      ∧ (t.bufs.get m.joining).entries = [] ∧ (t.bufs.get m.joining).side = .closed
      ∧ (t.rolls.get m.joining).entry.status = .empty
      ∧ t.bondFlag b .mendStarted = true ∧ (t.bonds.get b).fault = (s.bonds.get b).fault
      ∧ (t.bonds.get b).retrain = (s.bonds.get b).retrain ∧ (t.bonds.get b).ra.standing = .spoiled
      ∧ (t.bonds.get b).rd = (s.bonds.get b).rd ∧ (t.bonds.get b).map = (s.bonds.get b).map
      ∧ (t.bonds.get b).cfg = (s.bonds.get b).cfg ∧ (t.bonds.get b).profile = (s.bonds.get b).profile
      ∧ State.OtherBonds b s t ∧ State.OtherLanes n s t ∧ State.SameTime s t ∧ t.port = s.port
      ∧ ∀ l, l ≠ n → l ≠ m.joining → t.bufs.get l = s.bufs.get l ∧ t.rolls.get l = s.rolls.get l)
    ∧ ((s.bonds.get b).cfg.mending = false → ∃ t, exec (.frequencyLoss n false lateEntry) s = .next t
      ∧ t.bondFlag b .fault = true
      ∧ ((s.bonds.get b).fault = none →
          (t.bonds.get b).fault = some ⟨.laneLost, .running, some n, some k, none, s.timestamp⟩)
      ∧ ((s.bonds.get b).retrain < (s.bonds.get b).cfg.retrainLimit.toNat → (t.bonds.get b).state = .holding)
      ∧ ((s.bonds.get b).cfg.retrainLimit.toNat ≤ (s.bonds.get b).retrain → (t.bonds.get b).state = .halted)
      ∧ (t.bonds.get b).cfg = (s.bonds.get b).cfg
      ∧ State.OtherBonds b s t ∧ State.OtherLanes n s t ∧ State.SameTime s t ∧ t.port = s.port)

/-- A roll call that passes (R82, R83, R108): every member announces the same profile, the lane count is the number of
members, every index is announced once, EXACT finds no mismatch and the profile is usable: the bond is ALIGNING with the
profile, the map, GO and its align timer, and the release unit waits for marks. What was on its way and has no effect in
CALLING has arrived there (DESIGN CHOICE, log 1). -/
def Obligations.RollCallThatPassesEntersAligning : Prop :=
  ∀ (b : BondId) (n : Lane) (p : Profile) (s : State),
    (s.bonds.get b).cfg.memberList.head? = some n →
    (∀ m, (s.bonds.get b).cfg.isMember m = true → (s.rolls.get m).entry.record.common = p) →
    p.shape.lanes = (s.bonds.get b).cfg.memberList.length →
    (∀ m, (s.bonds.get b).cfg.isMember m = true → (s.rolls.get m).entry.record.logicalIndex.toNat < p.shape.lanes) →
    (∀ m m', (s.bonds.get b).cfg.isMember m = true → (s.bonds.get b).cfg.isMember m' = true →
      (s.rolls.get m).entry.record.logicalIndex = (s.rolls.get m').entry.record.logicalIndex → m = m') →
    ((s.bonds.get b).cfg.matchMode = .exact → (s.bonds.get b).cfg.firstMismatch p = none) →
    p.shape.usable = true → ∃ t, evaluateRollCall b s = t
      ∧ t = { s with bonds := s.bonds.set b (t.bonds.get b), bufs := t.bufs }
      ∧ (t.bonds.get b).state = .aligning ∧ (t.bonds.get b).profile = some p
      ∧ (t.bonds.get b).callWord = ⟨.go, p.bondTag, 0⟩
      ∧ (t.bonds.get b).callTimer = .stopped
      ∧ (t.bonds.get b).inFlight = (s.bonds.get b).inFlight.filter (Notice.actsInCalling (s.bonds.get b).cfg)
      ∧ (t.bonds.get b).alignTimer = .running 0 ((t.bonds.get b).cfg.alignTimeout.toNat * 1000)
      ∧ (t.bonds.get b).rel = { ReleaseUnit.reset with state := .markWait, go := (s.bonds.get b).rel.go }
      ∧ (t.bonds.get b).cfg = (s.bonds.get b).cfg
      ∧ (∀ m, (s.bonds.get b).cfg.isMember m = true →
          (t.bonds.get b).laneOf (Fin.ofNat 8 (s.rolls.get m).entry.record.logicalIndex.toNat) = some m
          ∧ (t.bufs.get m).side = .watching)
      ∧ (∀ m, (s.bonds.get b).cfg.isMember m = false → t.bufs.get m = s.bufs.get m)

/-- EPOCH_EVENT in TIMED mode (R111, R120): in EPOCH_WAIT it fixes the release instant; in RELEASED and RUNNING its phase
becomes the last epoch phase, and a circular distance beyond the tolerance counts a drift and raises EPOCH_DRIFT, with the
report to the bond taken in the same step or left on its way (log 1); in MARK_WAIT, COUNTDOWN and IDLE, and with the
reference ABSENT, it has no effect. -/
def Obligations.EpochEventFixesOrCompares : Prop :=
  ∀ (late : List BondId) (s : State), (s.refmon.present = false → exec (.epochEvent late) s = .next s)
    ∧ (s.refmon.present = true → ∃ t, exec (.epochEvent late) s = .next t ∧ State.SameTime s t ∧ t.lanes = s.lanes
      ∧ t.port = s.port ∧ t.snap = s.snap
      ∧ ∀ b, (s.bonds.get b).cfg.releaseMode = .timed →
        ((s.bonds.get b).rel.state = .epochWait → t.bonds.get b = { s.bonds.get b with
          rel := { (s.bonds.get b).rel with
            state := .countdown, epochInstant := some s.timestamp
            instant := some (s.timestamp + (s.bonds.get b).cfg.releaseDelay.setWidth 32 + 4) } })
        ∧ ((s.bonds.get b).rel.state = .markWait ∨ (s.bonds.get b).rel.state = .countdown
            ∨ (s.bonds.get b).rel.state = .idle → t.bonds.get b = s.bonds.get b)
        ∧ ((s.bonds.get b).rel.state = .released → (s.bonds.get b).state ≠ .running →
            t.bonds.get b = s.bonds.get b)
        ∧ (∀ q, (s.bonds.get b).rel.state = .released → (s.bonds.get b).state = .running →
            (s.bonds.get b).rel.releasePhase = some q →
            let p := (s.bonds.get b).rd.phase
            let d := max p q - min p q
            (min d ((s.bonds.get b).runSweep + 1 - d) ≤ (s.bonds.get b).cfg.epochTolerance.toNat →
              t.bonds.get b = { s.bonds.get b with rel := { (s.bonds.get b).rel with lastPhase := some p } })
            ∧ ((s.bonds.get b).cfg.epochTolerance.toNat < min d ((s.bonds.get b).runSweep + 1 - d) →
              t.bondFlag b .epochDrift = true
              ∧ (late.contains b = true → t.bonds.get b = { s.bonds.get b with
                  epochDrifts := satInc (s.bonds.get b).epochDrifts
                  rel := { (s.bonds.get b).rel with lastPhase := some p }
                  inFlight := (s.bonds.get b).inFlight ++ [.epochDrift] })
              ∧ (late.contains b = false → s.inFlightFrom b .readSide = false →
                (t.bonds.get b).epochDrifts = satInc (s.bonds.get b).epochDrifts
                ∧ ((s.bonds.get b).cfg.epochPolicy = .report → (t.bonds.get b).state = .running
                    ∧ (t.bonds.get b).rel.lastPhase = some p ∧ (t.bonds.get b).rel.releasePhase = some q)
                ∧ ((s.bonds.get b).cfg.epochPolicy = .retrain → t.bondFlag b .fault = true
                    ∧ (t.bonds.get b).state ≠ .running
                    ∧ ((s.bonds.get b).fault = none →
                      (t.bonds.get b).fault = some ⟨.epochDrift, .running, none, none, none, s.timestamp⟩))))))

/-! ## Release, read slots and rows -/

/-- RELEASE (R112, R113, R88, R141, R143): due in the unit time of the release instant, or in the unit time after the last
read slot of a sweep it was postponed behind (log 17); row 0 stands on the port in the same unit time, VALID and FIRST: its
read slot is in the same step (DEDUCED, log 6). The bond is RUNNING once it has taken the release report: in the same step,
or still ALIGNING while the report is on its way (log 1). Where the earliest start mark lies more than 1024 unit times back
there is no release (R105, R111, R194): what was on its way to the bond has arrived before it (DESIGN CHOICE, log 1), so
that the OVERFLOW of a member is a fault in ALIGNING, and with nothing on its way RELEASE has no effect, for the earliest
member's 1025th entry goes first (DEDUCED, log 36). A RELEASE at another moment has no effect. -/
def Obligations.ReleaseStartsReading : Prop :=
  ∀ (b : BondId) (p : Profile) (late : Bool) (s : State) (f : Index → Word), (s.bonds.get b).profile = some p →
    (s.releaseReached b = false → exec (.release b late) s = .next s)
    ∧ (∀ e, (s.bonds.get b).rel.earliest = some e → 1024 < (s.timestamp - e).toNat → (s.bonds.get b).inFlight = [] →
      exec (.release b late) s = .next s)
    ∧ (∀ n e, s.releaseReached b = true → (s.bonds.get b).rel.earliest = some e → 1024 < (s.timestamp - e).toNat →
      (s.bonds.get b).cfg.isMember n = true → (s.bonds.get b).inFlight = [.overflow n] →
      ∃ t, exec (.release b late) s = .next t ∧ t.bondFlag b .fault = true
        ∧ ((s.bonds.get b).fault = none → (t.bonds.get b).fault =
            some ⟨.overflow, .aligning, some n, (s.bonds.get b).indexOf n, none, s.timestamp⟩)
        ∧ (t.bonds.get b).state = (if (s.bonds.get b).cfg.retrainLimit.toNat ≤ (s.bonds.get b).retrain then .halted
            else if s.membersLocked b then .calling else .holding)
        ∧ (t.bonds.get b).rel.state = .idle ∧ (t.bonds.get b).rd.state ≠ .reading
        ∧ (t.bonds.get b).ra.presented = (s.bonds.get b).ra.presented ∧ (t.bonds.get b).inFlight = []
        ∧ State.OtherBonds b s t ∧ State.SameTime s t ∧ t.lanes = s.lanes ∧ t.port = s.port)
    ∧ ((s.bonds.get b).state = .aligning → (s.bonds.get b).rel.state = .countdown →
      ((s.bonds.get b).rd.state = .idle ∧ (s.bonds.get b).rel.instant = some s.timestamp)
        ∨ ((s.bonds.get b).rd.state = .completing ∧ (s.bonds.get b).rel.postponed = true
          ∧ (s.bonds.get b).rd.phase = 0) →
      (∀ e, (s.bonds.get b).rel.earliest = some e → (s.timestamp - e).toNat ≤ 1024) →
      (∀ i : Index, i.val < p.shape.lanes → ∃ n rest, (s.bonds.get b).laneOf i = some n
        ∧ (s.bufs.get n).entries = .unit (f i) false :: rest) →
      late = true ∨ s.inFlightFrom b .readSide = false →
      ∃ t row, exec (.release b late) s = .next t
        ∧ (t.bonds.get b).rel.state = .released ∧ (t.bonds.get b).rel.instant = some s.timestamp
        ∧ (t.bonds.get b).rd = ⟨.reading, 1, 0, true, true⟩ ∧ (t.bonds.get b).ra.runShape = some p.shape
        ∧ (t.bonds.get b).ra.presented = some row ∧ row.Shows p.shape 0 true false f
        ∧ (t.bonds.get b).ra.standing = .clean
        ∧ (late = false → (t.bonds.get b).state = .running ∧ t.bondFlag b .runningEntered = true
            ∧ (t.bonds.get b).alignTimer = .stopped ∧ (t.bonds.get b).inFlight = (s.bonds.get b).inFlight)
        ∧ (late = true → (t.bonds.get b).state = .aligning ∧ t.irq = s.irq
            ∧ (t.bonds.get b).alignTimer = (s.bonds.get b).alignTimer
            ∧ (t.bonds.get b).inFlight = (s.bonds.get b).inFlight ++ [.released])
        ∧ (∀ i n, i.val < p.shape.lanes → (s.bonds.get b).laneOf i = some n →
            (t.bufs.get n).entries = (s.bufs.get n).entries.tail)
        ∧ State.OtherBonds b s t ∧ State.SameTime s t ∧ t.lanes = s.lanes ∧ t.rolls = s.rolls ∧ t.port = s.port)

/-- A bond that was released and has not yet taken its release report (R112, R118, R146), as the next unit time begins. That
what is on its way arrives as TIMESTAMP_COUNTER_ADVANCE is taken, all of it in the order sent or what the operand names, is
the model's choice (DESIGN CHOICE, log 1), and so is that the phase moves in that step (DESIGN CHOICE, log 5). A report
that is all there is on its way takes the bond to RUNNING; where a member's lock loss was sent before the report and both
arrive, the fault is taken in ALIGNING, the report has no effect, the read side goes on to COMPLETING and the sweep
standing is SPOILED; where the report alone arrives, the bond is RUNNING and the lock loss still on its way (R75). -/
def Obligations.FaultBeforeTheReleaseReportKeepsTheBondOutOfRunning : Prop :=
  ∀ (b : BondId) (s : State),
    s.refmon.present = true → (∀ c, c ≠ b → (s.bonds.get c).inFlight = []) →
    (s.bonds.get b).state = .aligning → (s.bonds.get b).rel.state = .released → (s.bonds.get b).rd.state = .reading →
    (s.bonds.get b).rd.phase = 1 → (s.bonds.get b).rd.slotTaken = true → 1 < (s.bonds.get b).runSweep →
    ((s.bonds.get b).inFlight = [.released] → ∃ t, exec .timestampCounterAdvance s = .next t
      ∧ (t.bonds.get b).state = .running ∧ t.bondFlag b .runningEntered = true
      ∧ (t.bonds.get b).alignTimer = .stopped ∧ (t.bonds.get b).rd.state = .reading ∧ (t.bonds.get b).rd.phase = 2
      ∧ (t.bonds.get b).ra.standing = (s.bonds.get b).ra.standing ∧ (t.bonds.get b).inFlight = []
      ∧ t.timestamp = s.timestamp + 1 ∧ t.lanes = s.lanes ∧ t.bufs = s.bufs ∧ t.rolls = s.rolls)
    ∧ (∀ n cause, (s.bonds.get b).cfg.isMember n = true → (s.bonds.get b).inFlight = [.lockLost n cause, .released] →
      ∃ t, exec .timestampCounterAdvance s = .next t
        ∧ t.bondFlag b .fault = true ∧ t.bondFlag b .runningEntered = s.bondFlag b .runningEntered
        ∧ ((s.bonds.get b).fault = none → (t.bonds.get b).fault =
            some ⟨cause.fault, .aligning, some n, (s.bonds.get b).indexOf n, none, s.timestamp⟩)
        ∧ ((s.bonds.get b).retrain < (s.bonds.get b).cfg.retrainLimit.toNat →
            (t.bonds.get b).state = (if s.membersLocked b then .calling else .holding)
              ∧ (t.bonds.get b).retrain = (s.bonds.get b).retrain + 1)
        ∧ ((s.bonds.get b).cfg.retrainLimit.toNat ≤ (s.bonds.get b).retrain → (t.bonds.get b).state = .halted)
        ∧ (t.bonds.get b).rel.state = .idle ∧ (t.bonds.get b).rd.state = .completing ∧ (t.bonds.get b).rd.phase = 2
        ∧ (t.bonds.get b).ra.standing = .spoiled ∧ (t.bonds.get b).inFlight = []
        ∧ t.timestamp = s.timestamp + 1 ∧ t.lanes = s.lanes)
    ∧ (∀ n cause, (s.bonds.get b).inFlight = [.lockLost n cause, .released] →
      ∃ t, exec (.timestampCounterAdvance (some [(b, .readSide)])) s = .next t
        ∧ (t.bonds.get b).state = .running ∧ t.bondFlag b .runningEntered = true
        ∧ (t.bonds.get b).inFlight = [.lockLost n cause] ∧ (t.bonds.get b).fault = (s.bonds.get b).fault
        ∧ (t.bonds.get b).rd.state = .reading ∧ (t.bonds.get b).rd.phase = 2
        ∧ (t.bonds.get b).ra.standing = (s.bonds.get b).ra.standing
        ∧ t.timestamp = s.timestamp + 1 ∧ t.lanes = s.lanes)

/-- READ_SIDE_SLOT at a gap slot in READING (R114, R142): the head entry of every read lane's buffer leaves and no
row is presented; a slot of an IDLE read side, or one already read in this unit time (DESIGN CHOICE, log 5), does
nothing. -/
def Obligations.GapSlotTakesOneEntryFromEachReadLane : Prop :=
  ∀ (b : BondId) (first late : Bool) (s : State) (sh : Shape),
    ((s.bonds.get b).rd.state = .idle ∨ (s.bonds.get b).rd.slotTaken = true →
      exec (.readSideSlot b first late) s = .next s)
    ∧ ((s.bonds.get b).rd.state = .reading → (s.bonds.get b).rd.slotTaken = false → (s.bonds.get b).rd.phase = 0 →
      (s.bonds.get b).ra.runShape = some sh → s.seatDue b = false →
      (∀ n ∈ (s.bonds.get b).readLanes sh.lanes, (s.bufs.get n).entries ≠ []) → ∃ t,
      exec (.readSideSlot b first late) s = .next t
      ∧ t = { s with
        bufs := t.bufs
        bonds := s.bonds.set b { s.bonds.get b with
          rd := { (s.bonds.get b).rd with slotTaken := true }
          ra := { (s.bonds.get b).ra with presented := none } } }
      ∧ ∀ n, t.bufs.get n =
          if n ∈ (s.bonds.get b).readLanes sh.lanes then
            { s.bufs.get n with entries := (s.bufs.get n).entries.tail }
          else s.bufs.get n)

/-- READ_SIDE_SLOT at a read slot of a bond that counts as RUNNING (R112, R145), before the last of its sweep (R114, R142
to R150, R155): the row is VALID while the standing is CLEAN, with the fill value for a tainted unit; under FILL_REST a
tainted row cuts the sweep; an invalid row carries the fill value, or the held row in mode HOLD; the positions from L up
are 0, and FIRST and the start channel follow the data position (`RowPresented`, `Row.Shows`). -/
def Obligations.RunningReadSlotPresentsARow : Prop :=
  ∀ (b : BondId) (first late : Bool) (s : State) (sh : Shape) (j : Nat) (f : Index → Word × Bool),
    let bd := s.bonds.get b
    bd.countsRunning = true → bd.rd.state = .reading → bd.rd.slotTaken = false → bd.rd.phase = j + 1 →
    j + 1 < sh.sweep → bd.ra.runShape = some sh → bd.HeldOk →
    (∀ i : Index, i.val < sh.lanes → ∃ n rest, bd.laneOf i = some n ∧ bd.rd.withdrawn.getLsbD n.val = false
      ∧ (s.bufs.get n).entries = .unit (f i).1 (f i).2 :: rest) →
    ∃ t ra, exec (.readSideSlot b first late) s = .next t
      ∧ t = { s with
          bufs := t.bufs
          bonds := s.bonds.set b { bd with
            rd := { bd.rd with slotTaken := true, whole := j = 0 ∨ bd.rd.whole = true }, ra := ra } }
      ∧ RowPresented bd sh j f ra ∧ ra.sweeps = bd.ra.sweeps ∧ ra.fillSweeps = bd.ra.fillSweeps
      ∧ (∀ i n, i.val < sh.lanes → bd.laneOf i = some n → (t.bufs.get n).entries = (s.bufs.get n).entries.tail)
      ∧ ∀ n, (∀ i : Index, i.val < sh.lanes → bd.laneOf i ≠ some n) → t.bufs.get n = s.bufs.get n

/-- READ_SIDE_SLOT at the last read slot of a sweep of a RUNNING bond (R115, R154, R90): its row is judged as every row of
the sweep (`RowPresented`), the sweeps counter rises, the fill-sweeps counter with no VALID row in the sweep; the bond
takes the notice of a whole sweep in the same step, and the settle count rises, the 4096th setting the retrain count to 0;
or the notice stays on its way (log 1). -/
def Obligations.LastReadSlotCountsTheSweep : Prop :=
  ∀ (b : BondId) (first late : Bool) (s : State) (sh : Shape) (j : Nat),
    let bd := s.bonds.get b
    bd.state = .running → bd.rd.state = .reading → bd.rd.slotTaken = false → bd.rd.phase = j + 1 → j + 1 = sh.sweep →
    bd.ra.runShape = some sh → late = true ∨ s.inFlightFrom b .readSide = false →
    (∀ n ∈ bd.readLanes sh.lanes, (s.bufs.get n).entries ≠ []) → ∃ t bd',
      exec (.readSideSlot b first late) s = .next t ∧ bd' = t.bonds.get b
      ∧ t = { s with bufs := t.bufs, bonds := s.bonds.set b bd' }
      ∧ (∀ n, t.bufs.get n =
          if n ∈ bd.readLanes sh.lanes then { s.bufs.get n with entries := (s.bufs.get n).entries.tail }
          else s.bufs.get n)
      ∧ bd' = { bd with
          rd := { bd.rd with slotTaken := true, whole := j = 0 ∨ bd.rd.whole = true }, ra := bd'.ra
          settle := bd'.settle, retrain := bd'.retrain, inFlight := bd'.inFlight }
      ∧ (∀ f : Index → Word × Bool, bd.HeldOk →
          (∀ i : Index, i.val < sh.lanes → ∃ n rest, bd.laneOf i = some n ∧ bd.rd.withdrawn.getLsbD n.val = false
            ∧ (s.bufs.get n).entries = .unit (f i).1 (f i).2 :: rest) → RowPresented bd sh j f bd'.ra)
      ∧ bd'.ra.sweeps = bd.ra.sweeps + 1
      ∧ (bd'.ra.validRows = true → bd'.ra.fillSweeps = bd.ra.fillSweeps)
      ∧ (bd'.ra.validRows = false → bd'.ra.fillSweeps = satInc bd.ra.fillSweeps)
      ∧ (late = true → bd'.settle = bd.settle ∧ bd'.retrain = bd.retrain
          ∧ bd'.inFlight = bd.inFlight ++ [.sweepCompleted (decide (j = 0 ∨ bd.rd.whole = true))])
      ∧ (late = false → bd'.inFlight = bd.inFlight
          ∧ (j = 0 ∨ bd.rd.whole = true → bd.settle < 4095 → bd'.settle = bd.settle + 1 ∧ bd'.retrain = bd.retrain)
          ∧ (j = 0 ∨ bd.rd.whole = true → bd.settle = 4095 → bd'.settle = 4096 ∧ bd'.retrain = 0)
          ∧ (4096 ≤ bd.settle → bd'.settle = bd.settle ∧ bd'.retrain = bd.retrain)
          ∧ (j ≠ 0 → bd.rd.whole = false → bd'.settle = bd.settle ∧ bd'.retrain = bd.retrain))

/-- READ_SIDE_SLOT in COMPLETING (R115, R118, R142, R149, R150): an invalid row of fill, from no buffer, by the fill
configuration as it stands at that slot (DEDUCED, log 25); at the last read slot the sweep is counted, the sweep-completed
notice is sent with whole no, and the read side stays COMPLETING through that unit time (DEDUCED, log 17). The notice moves
no bond (R90); it stays on its way, or no earlier report of the read side is (log 1). -/
def Obligations.CompletingSlotPresentsFill : Prop :=
  ∀ (b : BondId) (first late : Bool) (s : State) (sh : Shape) (j : Nat),
    let bd := s.bonds.get b
    bd.rd.state = .completing → bd.rd.slotTaken = false → bd.rd.phase = j + 1 → bd.ra.runShape = some sh → bd.HeldOk →
    late = true ∨ s.inFlightFrom b .readSide = false →
    ∃ t row ra, exec (.readSideSlot b first late) s = .next t ∧ row.Shows sh j false false bd.fillAt
      ∧ t = { s with bonds := s.bonds.set b { bd with
          rd := { bd.rd with slotTaken := true }, ra := ra
          inFlight := bd.inFlight ++ if j + 1 = sh.sweep ∧ late = true then [.sweepCompleted false] else [] } }
      ∧ ra = { bd.ra with presented := some row, sweeps := ra.sweeps, fillSweeps := ra.fillSweeps }
      ∧ (j + 1 ≠ sh.sweep → ra.sweeps = bd.ra.sweeps ∧ ra.fillSweeps = bd.ra.fillSweeps)
      ∧ (j + 1 = sh.sweep → ra.sweeps = bd.ra.sweeps + 1
          ∧ ra.fillSweeps = if bd.ra.validRows then bd.ra.fillSweeps else satInc bd.ra.fillSweeps)

/-- A slot presents a row with VALID set only for a bond that counts as RUNNING (R112, R145), or for one whose seat
completes in that slot (R136, R146): outside RUNNING every sweep is SPOILED, and no slot presents one. -/
def Obligations.ValidRowsComeOnlyFromRunning : Prop :=
  ∀ (b : BondId) (first late : Bool) (s t : State) (row : Row), (s.bonds.get b).StandingOk →
    (s.bonds.get b).rd.slotTaken = false → (s.bonds.get b).ra.presented = none →
    exec (.readSideSlot b first late) s = .next t →
    (t.bonds.get b).ra.presented = some row → row.valid = true →
    (s.bonds.get b).countsRunning = true ∨ s.seatDue b = true

/-- SEAT_COMPLETE at the join slot (R136, R64, R88): the mend is JOINED and counted, the offset and arrival of k
follow the reference, MOVE rewrites map, members and spare, the bond is RUNNING, and row 0 of the first sweep after
the seat is VALID in the same unit time: its read is in the same step (DEDUCED, log 6). What was on its way and has no
effect in MENDING has arrived there (DESIGN CHOICE, log 1), so that no sweep before the seat is counted after it (R90). A
seat that is not at its join slot does not complete. -/
def Obligations.SeatCompletesAtItsJoinSlot : Prop :=
  ∀ (b : BondId) (late : Bool) (s : State) (sh : Shape) (m : MendRec) (d : Int) (f : Index → Word),
    let bd := s.bonds.get b
    (s.seatDue b = false → exec (.seatComplete b late) s = .next s)
    ∧ (s.seatDue b = true → bd.mend = some m → m.outcome = .inProgress → bd.MendLanesOk → bd.map.isSome = true →
      m.offset = some d → bd.rd.phase = 1 → bd.ra.runShape = some sh →
      (∀ i : Index, i.val < sh.lanes → ∃ n rest, (if i = m.k then some m.joining else bd.laneOf i) = some n
        ∧ (i ≠ m.k → n ≠ m.joining ∧ bd.rd.withdrawn.getLsbD n.val = false)
        ∧ (s.bufs.get n).entries = .unit (f i) false :: rest) →
      ∃ t row, exec (.seatComplete b late) s = .next t
        ∧ (t.bonds.get b).state = .running ∧ (t.bonds.get b).mend = some { m with outcome := .joined }
        ∧ (t.bonds.get b).seat = none ∧ (t.bonds.get b).mends = satInc bd.mends
        ∧ (t.bonds.get b).mendTimer = .stopped
        ∧ (t.bonds.get b).inFlight = bd.inFlight.filter (Notice.actsInMend bd.cfg m)
        ∧ t.bondFlag b .mendDone = true ∧ t.bondFlag b .runningEntered = true
        ∧ (t.bonds.get b).offsets.get m.k = (bd.offsets.get (bd.refIndex m.k)).map (fun o => o + d)
        ∧ (t.bonds.get b).rel.arrivals.get m.k =
            (bd.rel.arrivals.get (bd.refIndex m.k)).map (fun a => a + BitVec.ofInt 32 d)
        ∧ (t.bonds.get b).rel.instant = bd.rel.instant ∧ (t.bonds.get b).rel.skew = bd.rel.skew
        ∧ (m.method = .rejoin → (t.bonds.get b).cfg = bd.cfg ∧ (t.bonds.get b).map = bd.map)
        ∧ (m.method = .move → (t.bonds.get b).laneOf m.k = some m.joining ∧ (t.bonds.get b).cfg.spare = none
            ∧ ∀ n, (t.bonds.get b).cfg.isMember n =
                (decide (n = m.joining) || (bd.cfg.isMember n && decide (n ≠ m.trigger))))
        ∧ (t.bonds.get b).ra.presented = some row ∧ row.Shows sh 0 true false f
        ∧ (t.bonds.get b).rd.phase = 1 ∧ (t.bonds.get b).rd.slotTaken = true
        ∧ State.OtherBonds b s t ∧ State.SameTime s t ∧ t.lanes = s.lanes ∧ t.rolls = s.rolls ∧ t.port = s.port
        ∧ t.snap = s.snap
        ∧ ∀ n, (∀ i : Index, i.val < sh.lanes → (if i = m.k then some m.joining else bd.laneOf i) ≠ some n) →
            t.bufs.get n = s.bufs.get n)

/-! ## Resets, snapshots, flags and the host port -/

/-- PIN_RESET and RESET_PART (R185, R189, R169): every piece of state returns to its reset value; soft reset keeps the IRQ
level and drive and ends the transaction. The queue stays (DESIGN CHOICE, log 20). -/
def Obligations.ResetsReturnEverythingButTheQueue : Prop :=
  (∀ (csnLow : Bool) (s : State), exec (.pinReset csnLow) s = .next { State.reset with
      port := { State.reset.port with txn := if csnLow then .ended else .idle }, pending := s.pending })
  ∧ (∀ (v : Word) (s : State) (x : Txn), s.Takes false (globalAddr 1) x → v.getLsbD 0 = true →
      exec (.resetPart v) s = .next { State.reset with
        irq := { State.reset.irq with level := s.irq.level, drive := s.irq.drive }
        port := { State.reset.port with txn := if x = .idle then .idle else .ended }
        pending := s.pending })

/-- SNAPSHOT_REQUEST (R173): BUSY while a request is in progress, else LANE_OFF on an OFF lane, else accepted; the result
and the sequence are written each time; a trigger code of 3 is no request and raises PORT_ERROR. -/
def Obligations.SnapshotRequestIsJudged : Prop :=
  ∀ (n : Lane) (trigger : BitVec 2) (count : BitVec 4) (s : State) (x : Txn), s.Takes false (snapAddr 0) x →
    (trigger = 3 → exec (.snapshotRequest n trigger count) s = .next ((s.withTxn x).raiseGlobal .portError))
    ∧ (trigger ≠ 3 → s.snap.state = .armed ∨ s.snap.state = .filling →
        exec (.snapshotRequest n trigger count) s = .next { s.withTxn x with
          snap := { s.snap with lastResult := some .busy, seq := s.snap.seq + 1 } })
    ∧ (trigger ≠ 3 → s.snap.state ≠ .armed → s.snap.state ≠ .filling → (s.lanes.get n).mode = .off →
        exec (.snapshotRequest n trigger count) s = .next { s.withTxn x with
          snap := { s.snap with lastResult := some .laneOff, seq := s.snap.seq + 1 } })
    ∧ (trigger ≠ 3 → s.snap.state ≠ .armed → s.snap.state ≠ .filling → (s.lanes.get n).mode ≠ .off → ∃ tr,
        exec (.snapshotRequest n trigger count) s = .next { s.withTxn x with
          snap := ⟨.armed, some n, some tr, some (count.toNat + 1), [], none, none, some .accepted, s.snap.seq + 1,
            .running 0 1000⟩ }
        ∧ (trigger = 0 → tr = .next) ∧ (trigger = 1 → tr = .atMark) ∧ (trigger = 2 → tr = .atHead))

/-- SNAPSHOT_CANCEL and SNAPSHOT_TIMEOUT (R177, R178): they end a request in progress, or one that is ARMED with its
timer counted to its limit (DEDUCED, log 3), with their abort cause and SNAPSHOT_END, and keep the entries; otherwise nothing happens. -/
def Obligations.SnapshotCancelAndTimeoutAbort : Prop :=
  ∀ (s : State),
    (s.snap.state = .armed → s.snap.timer.due = true → exec .snapshotTimeout s = .next { s with
        snap := { s.snap with state := .aborted, abort := some .timeout, timer := .stopped }
        irq := { s.irq with globalPending := s.irq.globalPending ||| 4 } })
    ∧ (s.snap.state ≠ .armed ∨ s.snap.timer.due = false → exec .snapshotTimeout s = .next s)
    ∧ (∀ x, s.Takes false (snapAddr 0) x →
        (s.snap.state = .armed ∨ s.snap.state = .filling → exec .snapshotCancel s = .next { s.withTxn x with
          snap := { s.snap with state := .aborted, abort := some .cancelled, timer := .stopped }
          irq := { s.irq with globalPending := s.irq.globalPending ||| 4 } })
        ∧ (s.snap.state ≠ .armed → s.snap.state ≠ .filling → exec .snapshotCancel s = .next (s.withTxn x)))

/-- PENDING_CLEAR (R165): each flag of the group written 1 becomes not pending, the others and the other groups keep
theirs, and the enables stay. -/
def Obligations.PendingClearClearsWhatIsWrittenOne : Prop :=
  ∀ (g : FlagGroup) (v : Word) (s : State) (x : Txn), s.Takes false (pendingAddr g) x → ∃ t,
    exec (.pendingClear g v) s = .next t
    ∧ t = { s.withTxn x with irq := { s.irq with
        globalPending := t.irq.globalPending, lanePending := t.irq.lanePending, bondPending := t.irq.bondPending } }
    ∧ readWord t (regAt (pendingAddr g)) = readWord s (regAt (pendingAddr g)) &&& ~~~v
    ∧ ∀ g', g' ≠ g → readWord t (regAt (pendingAddr g')) = readWord s (regAt (pendingAddr g'))

/-- INSPECTION_SELECT (R191, R182): a bond and an item 0 to 5 are stored and read back; an item code of 6 or 7 leaves the
select and raises PORT_ERROR; the holding copy stays in both. -/
def Obligations.InspectionSelectStoresBondAndItem : Prop :=
  ∀ (v : Word) (s : State) (x : Txn), s.Takes false (globalAddr 9) x →
    ((v.extractLsb' 2 3).toNat < 6 → ∃ t, exec (.inspectionSelect v) s = .next t
      ∧ t = { s with port := { s.port with txn := x, selBond := t.port.selBond, selItem := v.extractLsb' 2 3 } }
      ∧ t.port.selBond.val = (v.extractLsb' 0 2).toNat ∧ readWord t (.global 9) = v &&& 0x001F)
    ∧ (6 ≤ (v.extractLsb' 2 3).toNat →
      exec (.inspectionSelect v) s = .next ((s.withTxn x).raiseGlobal .portError))

/-- REGISTER_WRITE (R166, R169, R182): an enable word takes the written value; the IRQ fields are stored; a write to
a read-only or unmapped word is ignored and raises PORT_ERROR. -/
def Obligations.RegisterWriteStoresOrIsIgnored : Prop :=
  ∀ (v : Word) (s : State) (x : Txn),
    (s.Takes false (globalAddr 8) x → exec (.registerWrite (globalAddr 8) v) s = .next { s.withTxn x with
      irq := { s.irq with globalEnable := v.extractLsb' 0 5 } })
    ∧ (∀ n, s.Takes false (laneAddr n 9) x → exec (.registerWrite (laneAddr n 9) v) s = .next { s.withTxn x with
      irq := { s.irq with laneEnable := s.irq.laneEnable.set n (v.extractLsb' 0 7) } })
    ∧ (∀ b, s.Takes false (bondAddr b 39) x → exec (.registerWrite (bondAddr b 39) v) s = .next { s.withTxn x with
      irq := { s.irq with bondEnable := s.irq.bondEnable.set b (v.extractLsb' 0 6) } })
    ∧ (s.Takes false (globalAddr 1) x → v.getLsbD 0 = false →
      exec (.registerWrite (globalAddr 1) v) s = .next { s.withTxn x with
        irq := { s.irq with
          level := if v.getLsbD 1 then .activeHigh else .activeLow
          drive := if v.getLsbD 2 then .openDrain else .pushPull } })
    ∧ (∀ a, s.Takes false a x →
      (match regAt a with
       | .global off => off.val ≠ 1 ∧ off.val ≠ 7 ∧ off.val ≠ 8 ∧ off.val ≠ 9
       | .lane _ off => off.val ≠ 0 ∧ off.val ≠ 1 ∧ off.val ≠ 8 ∧ off.val ≠ 9
       | .entry _ _ => True
       | .bond _ off => 11 ≤ off.val ∧ off.val ≠ 38 ∧ off.val ≠ 39
       | .snap off => off.val ≠ 0
       | .unmapped => True) →
      exec (.registerWrite a v) s = .next ((s.withTxn x).raiseGlobal .portError))

/-- TRANSACTION_HEADER, PARTIAL_WORD and TRANSACTION_END (R180, R181, R184): a good header opens a transaction of its
direction at its address; one with a bit of 13 to 9 set ends it and raises PORT_ERROR; CSN rising ends the transaction,
with PORT_ERROR when 1 to 15 bits of a word had arrived in a transaction that had not ended. -/
def Obligations.TransactionsOpenAndEnd : Prop :=
  ∀ (s : State),
    (∀ h : Word, h.extractLsb' 9 5 = 0 → exec (.transactionHeader h) s =
      .next (s.withTxn (.active (h.getLsbD 15) (h.getLsbD 14) (h.extractLsb' 0 9))))
    ∧ (∀ h : Word, h.extractLsb' 9 5 ≠ 0 →
      exec (.transactionHeader h) s = .next ((s.withTxn .ended).raiseGlobal .portError))
    ∧ exec .transactionEnd s = .next (s.withTxn .idle)
    ∧ (∀ bits : Fin 16, bits ≠ 0 → s.port.txn ≠ .ended →
      exec (.partialWord bits) s = .next ((s.withTxn .idle).raiseGlobal .portError))
    ∧ (∀ bits : Fin 16, s.port.txn = .ended → exec (.partialWord bits) s = .next (s.withTxn .idle))

/-- HOLDING_COPY_FILL and READ_UNMAPPED (R183, R186, R187): a read slot at word 0 of a held group copies the whole group
and samples its word 0; a later word comes from the copy while it holds the group, else live; a mapped word of no held
group is sampled live; an unmapped word samples 0 and raises PORT_ERROR. Each of the two commands is a read slot at
whatever address it names (DEDUCED, log 9). -/
def Obligations.ReadSlotsSampleAndFillTheCopy : Prop :=
  ∀ (a : Addr) (s : State) (x : Txn), s.Takes true a x →
    exec (.readUnmapped a) s = exec (.holdingCopyFill a) s
    ∧ (∀ g, heldAt (regAt a) = some (g, 0) → (regAt a).isMapped = true →
      exec (.holdingCopyFill a) s = .next { s with port := { s.port with
        txn := x, copy := some ⟨g, g.regs.map (readWord s)⟩, sample := readWord s (regAt a) } })
    ∧ (∀ g k c w, heldAt (regAt a) = some (g, k + 1) → (regAt a).isMapped = true → s.port.copy = some c →
      c.group = g → c.words[k + 1]? = some w →
      exec (.holdingCopyFill a) s = .next { s with port := { s.port with txn := x, sample := w } })
    ∧ (∀ g k, heldAt (regAt a) = some (g, k + 1) → (regAt a).isMapped = true →
      (∀ c, s.port.copy = some c → c.group ≠ g) →
      exec (.holdingCopyFill a) s = .next { s with port := { s.port with txn := x, sample := readWord s (regAt a) } })
    ∧ (heldAt (regAt a) = none → (regAt a).isMapped = true →
      exec (.holdingCopyFill a) s = .next { s with port := { s.port with txn := x, sample := readWord s (regAt a) } })
    ∧ ((regAt a).isMapped = false →
      exec (.readUnmapped a) s = .next ({ s with port := { s.port with txn := x, sample := 0 } }.raiseGlobal .portError))

/-- A data word that the port does not take now, because its transaction has ended, is of the other direction or stands at
another address, has no effect, for every command that is a data word (DEDUCED, log 8). -/
def Obligations.DataWordsNotTakenHaveNoEffect : Prop :=
  ∀ (s : State),
    (∀ b, s.port.txn.take false (bondAddr b 10) = none →
      exec (.start b) s = .next s ∧ exec (.stop b) s = .next s ∧ exec (.retrain b) s = .next s
      ∧ exec (.clearFault b) s = .next s ∧ exec (.clearCounters b) s = .next s)
    ∧ (∀ b (off : Fin 10) v, s.port.txn.take false (bondAddr b off.val) = none →
      exec (.bondConfigWrite b off v) s = .next s)
    ∧ (∀ n v late lateEntry, s.port.txn.take false (laneAddr n 0) = none →
      exec (.laneEnable n v) s = .next s ∧ exec (.laneDisable n v late lateEntry) s = .next s)
    ∧ (∀ n, s.port.txn.take false (laneAddr n 1) = none → exec (.laneClearCounters n) s = .next s)
    ∧ (∀ v, s.port.txn.take false (globalAddr 1) = none → exec (.resetPart v) s = .next s)
    ∧ (∀ n trigger count, s.port.txn.take false (snapAddr 0) = none →
      exec (.snapshotRequest n trigger count) s = .next s ∧ exec .snapshotCancel s = .next s)
    ∧ (∀ g v, s.port.txn.take false (pendingAddr g) = none → exec (.pendingClear g v) s = .next s)
    ∧ (∀ v, s.port.txn.take false (globalAddr 9) = none → exec (.inspectionSelect v) s = .next s)
    ∧ (∀ a v, s.port.txn.take false a = none → exec (.registerWrite a v) s = .next s)
    ∧ (∀ a, s.port.txn.take true a = none →
      exec (.holdingCopyFill a) s = .next s ∧ exec (.readUnmapped a) s = .next s)

/-- IRQ is asserted exactly while some flag is both pending and enabled, which is exactly while some indication of the
summary word is yes; and a clear deasserts it exactly when it leaves no enabled flag of its group pending and no other
group has one, whatever disabled flags stay pending. The enable word of a group stands at the address after its pending
word. -/
def Obligations.IrqFollowsPendingAndEnabledFlags : Prop :=
  (∀ q : Irq, q.asserted = true ↔
    (q.globalPending &&& q.globalEnable ≠ 0) ∨ (∃ n, q.lanePending.get n &&& q.laneEnable.get n ≠ 0)
      ∨ ∃ b, q.bondPending.get b &&& q.bondEnable.get b ≠ 0)
  ∧ (∀ q : Irq, q.asserted = true ↔ q.summary ≠ 0)
  ∧ (∀ (g : FlagGroup) (v : Word) (s : State) (x : Txn), s.Takes false (pendingAddr g) x →
      ∃ t, exec (.pendingClear g v) s = .next t
        ∧ (t.irq.asserted = true ↔ (∃ g', g' ≠ g ∧ s.irq.indication g' = true)
            ∨ readWord s (regAt (pendingAddr g)) &&& ~~~v &&& readWord s (regAt (pendingAddr g + 1)) ≠ 0))

end Slice0Statements
end

