-- ==== Sys2Proof/Laws/State.lean ====
section
/-! SUPPORT. One lemma for each update of a part of the state and each field it leaves, true by unfolding, and the laws
of the eight-fold and four-fold families. -/

namespace Sys2Proof

@[simp] theorem Eight.get_set {α : Type} (v : Eight α) (i j : Fin 8) (a : α) :
    (v.set i a).get j = if j = i then a else v.get j := by
  fin_cases i <;> fin_cases j <;> rfl

@[simp] theorem Eight.get_mapIdx {α β : Type} (v : Eight α) (f : Fin 8 → α → β) (i : Fin 8) :
    (v.mapIdx f).get i = f i (v.get i) := by
  fin_cases i <;> rfl

@[simp] theorem Eight.get_rep {α : Type} (a : α) (i : Fin 8) : (Eight.rep a).get i = a := by
  fin_cases i <;> rfl

@[simp] theorem Eight.get_ofFn {α : Type} (f : Fin 8 → α) (i : Fin 8) : (Eight.ofFn f).get i = f i := by
  fin_cases i <;> rfl

/-- Two families are equal when each of the eight is. -/
theorem Eight.ext_get {α : Type} {v w : Eight α} (h : ∀ i, v.get i = w.get i) : v = w := by
  have h0 := h 0; have h1 := h 1; have h2 := h 2; have h3 := h 3
  have h4 := h 4; have h5 := h 5; have h6 := h 6; have h7 := h 7
  cases v; cases w
  simp_all [Eight.get]

@[simp] theorem Eight.set_get {α : Type} (v : Eight α) (i : Fin 8) : v.set i (v.get i) = v :=
  Eight.ext_get fun j => by by_cases h : j = i <;> simp [h]

@[simp] theorem Four.get_set {α : Type} (v : Four α) (i j : Fin 4) (a : α) :
    (v.set i a).get j = if j = i then a else v.get j := by
  fin_cases i <;> fin_cases j <;> rfl

@[simp] theorem Four.get_mapIdx {α β : Type} (v : Four α) (f : Fin 4 → α → β) (i : Fin 4) :
    (v.mapIdx f).get i = f i (v.get i) := by
  fin_cases i <;> rfl

@[simp] theorem Four.get_rep {α : Type} (a : α) (i : Fin 4) : (Four.rep a).get i = a := by
  fin_cases i <;> rfl

/-- Two families are equal when each of the four is. -/
theorem Four.ext_get {α : Type} {v w : Four α} (h : ∀ i, v.get i = w.get i) : v = w := by
  have h0 := h 0; have h1 := h 1; have h2 := h 2; have h3 := h 3
  cases v; cases w
  simp_all [Four.get]

@[simp] theorem Four.set_get {α : Type} (v : Four α) (i : Fin 4) : v.set i (v.get i) = v :=
  Four.ext_get fun j => by by_cases h : j = i <;> simp [h]

@[simp] theorem Four.set_set {α : Type} (v : Four α) (i : Fin 4) (a c : α) : (v.set i a).set i c = v.set i c :=
  Four.ext_get fun j => by by_cases h : j = i <;> simp [h]

@[simp] theorem Eight.set_set {α : Type} (v : Eight α) (i : Fin 8) (a c : α) : (v.set i a).set i c = v.set i c :=
  Eight.ext_get fun j => by by_cases h : j = i <;> simp [h]

end Sys2Proof

namespace Sys2Proof.Machine.State

@[simp] theorem modLane_rolls (s : State) (n : Lane) (f : LaneRx → LaneRx) : (s.modLane n f).rolls = s.rolls := rfl
@[simp] theorem modLane_bufs (s : State) (n : Lane) (f : LaneRx → LaneRx) : (s.modLane n f).bufs = s.bufs := rfl
@[simp] theorem modLane_bonds (s : State) (n : Lane) (f : LaneRx → LaneRx) : (s.modLane n f).bonds = s.bonds := rfl
@[simp] theorem modLane_refmon (s : State) (n : Lane) (f : LaneRx → LaneRx) : (s.modLane n f).refmon = s.refmon := rfl
@[simp] theorem modLane_timestamp (s : State) (n : Lane) (f : LaneRx → LaneRx) : (s.modLane n f).timestamp = s.timestamp := rfl
@[simp] theorem modLane_slotDue (s : State) (n : Lane) (f : LaneRx → LaneRx) : (s.modLane n f).slotDue = s.slotDue := rfl
@[simp] theorem modLane_lineStarted (s : State) (n : Lane) (f : LaneRx → LaneRx) : (s.modLane n f).lineStarted = s.lineStarted := rfl
@[simp] theorem modLane_irq (s : State) (n : Lane) (f : LaneRx → LaneRx) : (s.modLane n f).irq = s.irq := rfl
@[simp] theorem modLane_snap (s : State) (n : Lane) (f : LaneRx → LaneRx) : (s.modLane n f).snap = s.snap := rfl
@[simp] theorem modLane_port (s : State) (n : Lane) (f : LaneRx → LaneRx) : (s.modLane n f).port = s.port := rfl
@[simp] theorem modLane_pending (s : State) (n : Lane) (f : LaneRx → LaneRx) : (s.modLane n f).pending = s.pending := rfl

@[simp] theorem modRoll_lanes (s : State) (n : Lane) (f : RollCall → RollCall) : (s.modRoll n f).lanes = s.lanes := rfl
@[simp] theorem modRoll_bufs (s : State) (n : Lane) (f : RollCall → RollCall) : (s.modRoll n f).bufs = s.bufs := rfl
@[simp] theorem modRoll_bonds (s : State) (n : Lane) (f : RollCall → RollCall) : (s.modRoll n f).bonds = s.bonds := rfl
@[simp] theorem modRoll_refmon (s : State) (n : Lane) (f : RollCall → RollCall) : (s.modRoll n f).refmon = s.refmon := rfl
@[simp] theorem modRoll_timestamp (s : State) (n : Lane) (f : RollCall → RollCall) : (s.modRoll n f).timestamp = s.timestamp := rfl
@[simp] theorem modRoll_slotDue (s : State) (n : Lane) (f : RollCall → RollCall) : (s.modRoll n f).slotDue = s.slotDue := rfl
@[simp] theorem modRoll_lineStarted (s : State) (n : Lane) (f : RollCall → RollCall) : (s.modRoll n f).lineStarted = s.lineStarted := rfl
@[simp] theorem modRoll_irq (s : State) (n : Lane) (f : RollCall → RollCall) : (s.modRoll n f).irq = s.irq := rfl
@[simp] theorem modRoll_snap (s : State) (n : Lane) (f : RollCall → RollCall) : (s.modRoll n f).snap = s.snap := rfl
@[simp] theorem modRoll_port (s : State) (n : Lane) (f : RollCall → RollCall) : (s.modRoll n f).port = s.port := rfl
@[simp] theorem modRoll_pending (s : State) (n : Lane) (f : RollCall → RollCall) : (s.modRoll n f).pending = s.pending := rfl

@[simp] theorem modBuf_lanes (s : State) (n : Lane) (f : Buffer → Buffer) : (s.modBuf n f).lanes = s.lanes := rfl
@[simp] theorem modBuf_rolls (s : State) (n : Lane) (f : Buffer → Buffer) : (s.modBuf n f).rolls = s.rolls := rfl
@[simp] theorem modBuf_bonds (s : State) (n : Lane) (f : Buffer → Buffer) : (s.modBuf n f).bonds = s.bonds := rfl
@[simp] theorem modBuf_refmon (s : State) (n : Lane) (f : Buffer → Buffer) : (s.modBuf n f).refmon = s.refmon := rfl
@[simp] theorem modBuf_timestamp (s : State) (n : Lane) (f : Buffer → Buffer) : (s.modBuf n f).timestamp = s.timestamp := rfl
@[simp] theorem modBuf_slotDue (s : State) (n : Lane) (f : Buffer → Buffer) : (s.modBuf n f).slotDue = s.slotDue := rfl
@[simp] theorem modBuf_lineStarted (s : State) (n : Lane) (f : Buffer → Buffer) : (s.modBuf n f).lineStarted = s.lineStarted := rfl
@[simp] theorem modBuf_irq (s : State) (n : Lane) (f : Buffer → Buffer) : (s.modBuf n f).irq = s.irq := rfl
@[simp] theorem modBuf_snap (s : State) (n : Lane) (f : Buffer → Buffer) : (s.modBuf n f).snap = s.snap := rfl
@[simp] theorem modBuf_port (s : State) (n : Lane) (f : Buffer → Buffer) : (s.modBuf n f).port = s.port := rfl
@[simp] theorem modBuf_pending (s : State) (n : Lane) (f : Buffer → Buffer) : (s.modBuf n f).pending = s.pending := rfl

@[simp] theorem modBond_lanes (s : State) (b : BondId) (f : Bond → Bond) : (s.modBond b f).lanes = s.lanes := rfl
@[simp] theorem modBond_rolls (s : State) (b : BondId) (f : Bond → Bond) : (s.modBond b f).rolls = s.rolls := rfl
@[simp] theorem modBond_bufs (s : State) (b : BondId) (f : Bond → Bond) : (s.modBond b f).bufs = s.bufs := rfl
@[simp] theorem modBond_refmon (s : State) (b : BondId) (f : Bond → Bond) : (s.modBond b f).refmon = s.refmon := rfl
@[simp] theorem modBond_timestamp (s : State) (b : BondId) (f : Bond → Bond) : (s.modBond b f).timestamp = s.timestamp := rfl
@[simp] theorem modBond_slotDue (s : State) (b : BondId) (f : Bond → Bond) : (s.modBond b f).slotDue = s.slotDue := rfl
@[simp] theorem modBond_lineStarted (s : State) (b : BondId) (f : Bond → Bond) : (s.modBond b f).lineStarted = s.lineStarted := rfl
@[simp] theorem modBond_irq (s : State) (b : BondId) (f : Bond → Bond) : (s.modBond b f).irq = s.irq := rfl
@[simp] theorem modBond_snap (s : State) (b : BondId) (f : Bond → Bond) : (s.modBond b f).snap = s.snap := rfl
@[simp] theorem modBond_port (s : State) (b : BondId) (f : Bond → Bond) : (s.modBond b f).port = s.port := rfl
@[simp] theorem modBond_pending (s : State) (b : BondId) (f : Bond → Bond) : (s.modBond b f).pending = s.pending := rfl

@[simp] theorem modSnap_lanes (s : State) (f : Snapshot → Snapshot) : (s.modSnap f).lanes = s.lanes := rfl
@[simp] theorem modSnap_rolls (s : State) (f : Snapshot → Snapshot) : (s.modSnap f).rolls = s.rolls := rfl
@[simp] theorem modSnap_bufs (s : State) (f : Snapshot → Snapshot) : (s.modSnap f).bufs = s.bufs := rfl
@[simp] theorem modSnap_bonds (s : State) (f : Snapshot → Snapshot) : (s.modSnap f).bonds = s.bonds := rfl
@[simp] theorem modSnap_refmon (s : State) (f : Snapshot → Snapshot) : (s.modSnap f).refmon = s.refmon := rfl
@[simp] theorem modSnap_timestamp (s : State) (f : Snapshot → Snapshot) : (s.modSnap f).timestamp = s.timestamp := rfl
@[simp] theorem modSnap_slotDue (s : State) (f : Snapshot → Snapshot) : (s.modSnap f).slotDue = s.slotDue := rfl
@[simp] theorem modSnap_lineStarted (s : State) (f : Snapshot → Snapshot) : (s.modSnap f).lineStarted = s.lineStarted := rfl
@[simp] theorem modSnap_irq (s : State) (f : Snapshot → Snapshot) : (s.modSnap f).irq = s.irq := rfl
@[simp] theorem modSnap_port (s : State) (f : Snapshot → Snapshot) : (s.modSnap f).port = s.port := rfl
@[simp] theorem modSnap_pending (s : State) (f : Snapshot → Snapshot) : (s.modSnap f).pending = s.pending := rfl

@[simp] theorem modPort_lanes (s : State) (f : HostPort → HostPort) : (s.modPort f).lanes = s.lanes := rfl
@[simp] theorem modPort_rolls (s : State) (f : HostPort → HostPort) : (s.modPort f).rolls = s.rolls := rfl
@[simp] theorem modPort_bufs (s : State) (f : HostPort → HostPort) : (s.modPort f).bufs = s.bufs := rfl
@[simp] theorem modPort_bonds (s : State) (f : HostPort → HostPort) : (s.modPort f).bonds = s.bonds := rfl
@[simp] theorem modPort_refmon (s : State) (f : HostPort → HostPort) : (s.modPort f).refmon = s.refmon := rfl
@[simp] theorem modPort_timestamp (s : State) (f : HostPort → HostPort) : (s.modPort f).timestamp = s.timestamp := rfl
@[simp] theorem modPort_slotDue (s : State) (f : HostPort → HostPort) : (s.modPort f).slotDue = s.slotDue := rfl
@[simp] theorem modPort_lineStarted (s : State) (f : HostPort → HostPort) : (s.modPort f).lineStarted = s.lineStarted := rfl
@[simp] theorem modPort_irq (s : State) (f : HostPort → HostPort) : (s.modPort f).irq = s.irq := rfl
@[simp] theorem modPort_snap (s : State) (f : HostPort → HostPort) : (s.modPort f).snap = s.snap := rfl
@[simp] theorem modPort_pending (s : State) (f : HostPort → HostPort) : (s.modPort f).pending = s.pending := rfl

@[simp] theorem clearBufs_lanes (s : State) (p : Lane → Bool) : (s.clearBufs p).lanes = s.lanes := rfl
@[simp] theorem clearBufs_rolls (s : State) (p : Lane → Bool) : (s.clearBufs p).rolls = s.rolls := rfl
@[simp] theorem clearBufs_bonds (s : State) (p : Lane → Bool) : (s.clearBufs p).bonds = s.bonds := rfl
@[simp] theorem clearBufs_refmon (s : State) (p : Lane → Bool) : (s.clearBufs p).refmon = s.refmon := rfl
@[simp] theorem clearBufs_timestamp (s : State) (p : Lane → Bool) : (s.clearBufs p).timestamp = s.timestamp := rfl
@[simp] theorem clearBufs_slotDue (s : State) (p : Lane → Bool) : (s.clearBufs p).slotDue = s.slotDue := rfl
@[simp] theorem clearBufs_lineStarted (s : State) (p : Lane → Bool) : (s.clearBufs p).lineStarted = s.lineStarted := rfl
@[simp] theorem clearBufs_irq (s : State) (p : Lane → Bool) : (s.clearBufs p).irq = s.irq := rfl
@[simp] theorem clearBufs_snap (s : State) (p : Lane → Bool) : (s.clearBufs p).snap = s.snap := rfl
@[simp] theorem clearBufs_port (s : State) (p : Lane → Bool) : (s.clearBufs p).port = s.port := rfl
@[simp] theorem clearBufs_pending (s : State) (p : Lane → Bool) : (s.clearBufs p).pending = s.pending := rfl

@[simp] theorem closeBufs_lanes (s : State) (p : Lane → Bool) : (s.closeBufs p).lanes = s.lanes := rfl
@[simp] theorem closeBufs_rolls (s : State) (p : Lane → Bool) : (s.closeBufs p).rolls = s.rolls := rfl
@[simp] theorem closeBufs_bonds (s : State) (p : Lane → Bool) : (s.closeBufs p).bonds = s.bonds := rfl
@[simp] theorem closeBufs_refmon (s : State) (p : Lane → Bool) : (s.closeBufs p).refmon = s.refmon := rfl
@[simp] theorem closeBufs_timestamp (s : State) (p : Lane → Bool) : (s.closeBufs p).timestamp = s.timestamp := rfl
@[simp] theorem closeBufs_slotDue (s : State) (p : Lane → Bool) : (s.closeBufs p).slotDue = s.slotDue := rfl
@[simp] theorem closeBufs_lineStarted (s : State) (p : Lane → Bool) : (s.closeBufs p).lineStarted = s.lineStarted := rfl
@[simp] theorem closeBufs_irq (s : State) (p : Lane → Bool) : (s.closeBufs p).irq = s.irq := rfl
@[simp] theorem closeBufs_snap (s : State) (p : Lane → Bool) : (s.closeBufs p).snap = s.snap := rfl
@[simp] theorem closeBufs_port (s : State) (p : Lane → Bool) : (s.closeBufs p).port = s.port := rfl
@[simp] theorem closeBufs_pending (s : State) (p : Lane → Bool) : (s.closeBufs p).pending = s.pending := rfl

@[simp] theorem clearEntries_lanes (s : State) (b : BondId) (p : Lane → Bool) : (s.clearEntries b p).lanes = s.lanes := rfl
@[simp] theorem clearEntries_bufs (s : State) (b : BondId) (p : Lane → Bool) : (s.clearEntries b p).bufs = s.bufs := rfl
@[simp] theorem clearEntries_refmon (s : State) (b : BondId) (p : Lane → Bool) : (s.clearEntries b p).refmon = s.refmon := rfl
@[simp] theorem clearEntries_timestamp (s : State) (b : BondId) (p : Lane → Bool) : (s.clearEntries b p).timestamp = s.timestamp := rfl
@[simp] theorem clearEntries_slotDue (s : State) (b : BondId) (p : Lane → Bool) : (s.clearEntries b p).slotDue = s.slotDue := rfl
@[simp] theorem clearEntries_lineStarted (s : State) (b : BondId) (p : Lane → Bool) : (s.clearEntries b p).lineStarted = s.lineStarted := rfl
@[simp] theorem clearEntries_irq (s : State) (b : BondId) (p : Lane → Bool) : (s.clearEntries b p).irq = s.irq := rfl
@[simp] theorem clearEntries_snap (s : State) (b : BondId) (p : Lane → Bool) : (s.clearEntries b p).snap = s.snap := rfl
@[simp] theorem clearEntries_port (s : State) (b : BondId) (p : Lane → Bool) : (s.clearEntries b p).port = s.port := rfl
@[simp] theorem clearEntries_pending (s : State) (b : BondId) (p : Lane → Bool) : (s.clearEntries b p).pending = s.pending := rfl

@[simp] theorem raiseGlobal_lanes (s : State) (g : GlobalFlag) : (s.raiseGlobal g).lanes = s.lanes := rfl
@[simp] theorem raiseGlobal_rolls (s : State) (g : GlobalFlag) : (s.raiseGlobal g).rolls = s.rolls := rfl
@[simp] theorem raiseGlobal_bufs (s : State) (g : GlobalFlag) : (s.raiseGlobal g).bufs = s.bufs := rfl
@[simp] theorem raiseGlobal_bonds (s : State) (g : GlobalFlag) : (s.raiseGlobal g).bonds = s.bonds := rfl
@[simp] theorem raiseGlobal_refmon (s : State) (g : GlobalFlag) : (s.raiseGlobal g).refmon = s.refmon := rfl
@[simp] theorem raiseGlobal_timestamp (s : State) (g : GlobalFlag) : (s.raiseGlobal g).timestamp = s.timestamp := rfl
@[simp] theorem raiseGlobal_slotDue (s : State) (g : GlobalFlag) : (s.raiseGlobal g).slotDue = s.slotDue := rfl
@[simp] theorem raiseGlobal_lineStarted (s : State) (g : GlobalFlag) : (s.raiseGlobal g).lineStarted = s.lineStarted := rfl
@[simp] theorem raiseGlobal_snap (s : State) (g : GlobalFlag) : (s.raiseGlobal g).snap = s.snap := rfl
@[simp] theorem raiseGlobal_port (s : State) (g : GlobalFlag) : (s.raiseGlobal g).port = s.port := rfl
@[simp] theorem raiseGlobal_pending (s : State) (g : GlobalFlag) : (s.raiseGlobal g).pending = s.pending := rfl

@[simp] theorem raiseLane_lanes (s : State) (n : Lane) (g : LaneFlag) : (s.raiseLane n g).lanes = s.lanes := rfl
@[simp] theorem raiseLane_rolls (s : State) (n : Lane) (g : LaneFlag) : (s.raiseLane n g).rolls = s.rolls := rfl
@[simp] theorem raiseLane_bufs (s : State) (n : Lane) (g : LaneFlag) : (s.raiseLane n g).bufs = s.bufs := rfl
@[simp] theorem raiseLane_bonds (s : State) (n : Lane) (g : LaneFlag) : (s.raiseLane n g).bonds = s.bonds := rfl
@[simp] theorem raiseLane_refmon (s : State) (n : Lane) (g : LaneFlag) : (s.raiseLane n g).refmon = s.refmon := rfl
@[simp] theorem raiseLane_timestamp (s : State) (n : Lane) (g : LaneFlag) : (s.raiseLane n g).timestamp = s.timestamp := rfl
@[simp] theorem raiseLane_slotDue (s : State) (n : Lane) (g : LaneFlag) : (s.raiseLane n g).slotDue = s.slotDue := rfl
@[simp] theorem raiseLane_lineStarted (s : State) (n : Lane) (g : LaneFlag) : (s.raiseLane n g).lineStarted = s.lineStarted := rfl
@[simp] theorem raiseLane_snap (s : State) (n : Lane) (g : LaneFlag) : (s.raiseLane n g).snap = s.snap := rfl
@[simp] theorem raiseLane_port (s : State) (n : Lane) (g : LaneFlag) : (s.raiseLane n g).port = s.port := rfl
@[simp] theorem raiseLane_pending (s : State) (n : Lane) (g : LaneFlag) : (s.raiseLane n g).pending = s.pending := rfl

@[simp] theorem raiseBond_lanes (s : State) (b : BondId) (g : BondFlag) : (s.raiseBond b g).lanes = s.lanes := rfl
@[simp] theorem raiseBond_rolls (s : State) (b : BondId) (g : BondFlag) : (s.raiseBond b g).rolls = s.rolls := rfl
@[simp] theorem raiseBond_bufs (s : State) (b : BondId) (g : BondFlag) : (s.raiseBond b g).bufs = s.bufs := rfl
@[simp] theorem raiseBond_bonds (s : State) (b : BondId) (g : BondFlag) : (s.raiseBond b g).bonds = s.bonds := rfl
@[simp] theorem raiseBond_refmon (s : State) (b : BondId) (g : BondFlag) : (s.raiseBond b g).refmon = s.refmon := rfl
@[simp] theorem raiseBond_timestamp (s : State) (b : BondId) (g : BondFlag) : (s.raiseBond b g).timestamp = s.timestamp := rfl
@[simp] theorem raiseBond_slotDue (s : State) (b : BondId) (g : BondFlag) : (s.raiseBond b g).slotDue = s.slotDue := rfl
@[simp] theorem raiseBond_lineStarted (s : State) (b : BondId) (g : BondFlag) : (s.raiseBond b g).lineStarted = s.lineStarted := rfl
@[simp] theorem raiseBond_snap (s : State) (b : BondId) (g : BondFlag) : (s.raiseBond b g).snap = s.snap := rfl
@[simp] theorem raiseBond_port (s : State) (b : BondId) (g : BondFlag) : (s.raiseBond b g).port = s.port := rfl
@[simp] theorem raiseBond_pending (s : State) (b : BondId) (g : BondFlag) : (s.raiseBond b g).pending = s.pending := rfl

/-! ## The field an update changes -/

@[simp] theorem modLane_get (s : State) (n m : Lane) (f : LaneRx → LaneRx) :
    (s.modLane n f).lanes.get m = if m = n then f (s.lanes.get n) else s.lanes.get m := by
  simp [modLane]

@[simp] theorem modRoll_get (s : State) (n m : Lane) (f : RollCall → RollCall) :
    (s.modRoll n f).rolls.get m = if m = n then f (s.rolls.get n) else s.rolls.get m := by
  simp [modRoll]

@[simp] theorem modBuf_get (s : State) (n m : Lane) (f : Buffer → Buffer) :
    (s.modBuf n f).bufs.get m = if m = n then f (s.bufs.get n) else s.bufs.get m := by
  simp [modBuf]

@[simp] theorem modBond_get (s : State) (b c : BondId) (f : Bond → Bond) :
    (s.modBond b f).bonds.get c = if c = b then f (s.bonds.get b) else s.bonds.get c := by
  simp [modBond]

@[simp] theorem modSnap_snap (s : State) (f : Snapshot → Snapshot) : (s.modSnap f).snap = f s.snap := rfl

@[simp] theorem modPort_port (s : State) (f : HostPort → HostPort) : (s.modPort f).port = f s.port := rfl

@[simp] theorem clearBufs_get (s : State) (p : Lane → Bool) (n : Lane) :
    (s.clearBufs p).bufs.get n = if p n then (s.bufs.get n).clear else s.bufs.get n := by
  simp [clearBufs]

@[simp] theorem closeBufs_get (s : State) (p : Lane → Bool) (n : Lane) :
    (s.closeBufs p).bufs.get n = if p n then (s.bufs.get n).close else s.bufs.get n := by
  simp [closeBufs]

@[simp] theorem clearEntries_get (s : State) (b : BondId) (p : Lane → Bool) (n : Lane) :
    (s.clearEntries b p).rolls.get n = if p n then (s.rolls.get n).clearEntry else s.rolls.get n := by
  simp [clearEntries]

@[simp] theorem clearEntries_bonds_get (s : State) (b c : BondId) (p : Lane → Bool) :
    (s.clearEntries b p).bonds.get c =
      if c = b then (s.bonds.get b).send (s.clearNotices p) else s.bonds.get c := by
  simp [clearEntries]

/-- The notices of a clear depend on the entries alone. -/
theorem clearNotices_congr {s t : State} (h : t.rolls = s.rolls) (p : Lane → Bool) : t.clearNotices p = s.clearNotices p := by
  simp [clearNotices, h]

end Sys2Proof.Machine.State
end

