-- ==== Sys2Proof/Laws/Moves.lean ====
section
/-! SUPPORT. What a bond controller's own move can change: one structure, and one lemma for each shared operation that
is such a move. -/

namespace Sys2Proof.Machine

/-- What a bond's own move makes of what is on its way to it: some of it, in its order, and after it the notices of entries
that the bond has cleared. -/
def LeftInFlight (xs ys : List Notice) : Prop :=
  ∃ as es, ys = as ++ es ∧ as.Sublist xs ∧ ∀ x ∈ es, ∃ n, x = .entryStatus n .empty

theorem LeftInFlight.of_sublist {xs ys : List Notice} (h : ys.Sublist xs) : LeftInFlight xs ys :=
  ⟨ys, [], by simp, h, by simp⟩

theorem LeftInFlight.trans {xs ys zs : List Notice} (h : LeftInFlight xs ys) (k : LeftInFlight ys zs) :
    LeftInFlight xs zs := by
  obtain ⟨as, es, rfl, ha, he⟩ := h
  obtain ⟨cs, fs, rfl, hc, hf⟩ := k
  obtain ⟨p, q, rfl, hp, hq⟩ := List.sublist_append_iff.mp hc
  refine ⟨p, q ++ fs, by simp, hp.trans ha, fun x hx => ?_⟩
  rcases List.mem_append.mp hx with hx | hx
  · exact he x (hq.subset hx)
  · exact hf x hx

/-- A move of the controller of bond `b`: what it leaves alone. To what is on its way to the bond it adds the notices of
entries that it clears, and nothing else. -/
structure BondMoves (b : BondId) (s t : State) : Prop where
  lanes : t.lanes = s.lanes
  snap : t.snap = s.snap
  port : t.port = s.port
  time : State.SameTime s t
  others : State.OtherBonds b s t
  globalPending : t.irq.globalPending = s.irq.globalPending
  lanePending : t.irq.lanePending = s.irq.lanePending
  otherPending : ∀ c, c ≠ b → t.irq.bondPending.get c = s.irq.bondPending.get c
  keepsFlags : ∀ c f, s.bondFlag c f = true → t.bondFlag c f = true
  enables : t.irq.globalEnable = s.irq.globalEnable ∧ t.irq.laneEnable = s.irq.laneEnable
    ∧ t.irq.bondEnable = s.irq.bondEnable ∧ t.irq.level = s.irq.level ∧ t.irq.drive = s.irq.drive
  rolls : ∀ n, t.rolls.get n = s.rolls.get n ∨ t.rolls.get n = (s.rolls.get n).clearEntry
  depth : (∀ n, (s.bufs.get n).DepthOk) → ∀ n, (t.bufs.get n).DepthOk
  cfg : (t.bonds.get b).cfg = (s.bonds.get b).cfg
  result : (t.bonds.get b).result = (s.bonds.get b).result
  inFlight : LeftInFlight (s.bonds.get b).inFlight (t.bonds.get b).inFlight
  line : (t.bonds.get b).lastSent = (s.bonds.get b).lastSent ∧ (t.bonds.get b).callSeq = (s.bonds.get b).callSeq
    ∧ (t.bonds.get b).lineKind = (s.bonds.get b).lineKind ∧ (t.bonds.get b).lineIndex = (s.bonds.get b).lineIndex
    ∧ (t.bonds.get b).rel.go = (s.bonds.get b).rel.go
  active : (s.bonds.get b).state ≠ .disabled → (t.bonds.get b).state ≠ .disabled
  counts : (s.bonds.get b).state ≠ .disabled → (s.bonds.get b).CountsOk → (t.bonds.get b).CountsOk

theorem RollCall.clearEntry_clearEntry (r : RollCall) : r.clearEntry.clearEntry = r.clearEntry := rfl

namespace BondMoves

theorem refl (b : BondId) (s : State) : BondMoves b s s where
  lanes := rfl
  snap := rfl
  port := rfl
  time := ⟨rfl, rfl, rfl, rfl, rfl⟩
  others := fun _ _ => rfl
  globalPending := rfl
  lanePending := rfl
  otherPending := fun _ _ => rfl
  keepsFlags := fun _ _ h => h
  enables := ⟨rfl, rfl, rfl, rfl, rfl⟩
  rolls := fun _ => .inl rfl
  depth := fun h => h
  cfg := rfl
  result := rfl
  inFlight := .of_sublist (List.Sublist.refl _)
  line := ⟨rfl, rfl, rfl, rfl, rfl⟩
  active := fun h => h
  counts := fun _ h => h

theorem trans {b : BondId} {s t u : State} (h : BondMoves b s t) (k : BondMoves b t u) : BondMoves b s u where
  lanes := k.lanes.trans h.lanes
  snap := k.snap.trans h.snap
  port := k.port.trans h.port
  time := ⟨k.time.timestamp.trans h.time.timestamp, k.time.refmon.trans h.time.refmon,
    k.time.slotDue.trans h.time.slotDue, k.time.lineStarted.trans h.time.lineStarted,
    k.time.pending.trans h.time.pending⟩
  others := fun c hc => (k.others c hc).trans (h.others c hc)
  globalPending := k.globalPending.trans h.globalPending
  lanePending := k.lanePending.trans h.lanePending
  otherPending := fun c hc => (k.otherPending c hc).trans (h.otherPending c hc)
  keepsFlags := fun c f hf => k.keepsFlags c f (h.keepsFlags c f hf)
  enables := by
    obtain ⟨a, b, c, d, e⟩ := h.enables
    obtain ⟨a', b', c', d', e'⟩ := k.enables
    exact ⟨a'.trans a, b'.trans b, c'.trans c, d'.trans d, e'.trans e⟩
  rolls := fun n => by
    rcases k.rolls n with k | k <;> rcases h.rolls n with h | h <;> rw [k, h]
    · exact .inl rfl
    · exact .inr rfl
    · exact .inr rfl
    · exact .inr rfl
  depth := fun d => k.depth (h.depth d)
  cfg := k.cfg.trans h.cfg
  result := k.result.trans h.result
  inFlight := h.inFlight.trans k.inFlight
  line := by
    obtain ⟨a, b, c, d, e⟩ := h.line
    obtain ⟨a', b', c', d', e'⟩ := k.line
    exact ⟨a'.trans a, b'.trans b, c'.trans c, d'.trans d, e'.trans e⟩
  active := fun a => k.active (h.active a)
  counts := fun a c => k.counts (h.active a) (h.counts a c)

end BondMoves

/-! ## The updates a move is made of -/

/-- An update of the bond's row that keeps its configuration, its last result and its line fields, and sends it
nothing. -/
structure Bond.Keeps (bd bd' : Bond) : Prop where
  cfg : bd'.cfg = bd.cfg
  result : bd'.result = bd.result
  inFlight : bd'.inFlight.Sublist bd.inFlight
  lastSent : bd'.lastSent = bd.lastSent
  callSeq : bd'.callSeq = bd.callSeq
  lineKind : bd'.lineKind = bd.lineKind
  lineIndex : bd'.lineIndex = bd.lineIndex
  go : bd'.rel.go = bd.rel.go
  active : bd.state ≠ .disabled → bd'.state ≠ .disabled
  counts : bd.state ≠ .disabled → bd.CountsOk → bd'.CountsOk

theorem modBond_moves {s : State} {b : BondId} {f : Bond → Bond} (h : (s.bonds.get b).Keeps (f (s.bonds.get b))) :
    BondMoves b s (s.modBond b f) where
  lanes := rfl
  snap := rfl
  port := rfl
  time := ⟨rfl, rfl, rfl, rfl, rfl⟩
  others := fun c hc => by simp [hc]
  globalPending := rfl
  lanePending := rfl
  otherPending := fun _ _ => rfl
  keepsFlags := fun _ _ h => h
  enables := ⟨rfl, rfl, rfl, rfl, rfl⟩
  rolls := fun _ => .inl rfl
  depth := fun h => h
  cfg := by simpa using h.cfg
  result := by simpa using h.result
  inFlight := .of_sublist (by simpa using h.inFlight)
  line := by simpa using ⟨h.lastSent, h.callSeq, h.lineKind, h.lineIndex, h.go⟩
  active := by simpa using h.active
  counts := by simpa using h.counts

theorem bondFlag_raiseBond (s : State) (b c : BondId) (f g : BondFlag) :
    (s.raiseBond b f).bondFlag c g = (s.bondFlag c g || (decide (c = b) && decide (g = f))) := by
  by_cases h : c = b
  · subst h
    cases f <;> cases g <;> simp [State.raiseBond, State.bondFlag, setFlag, BondFlag.pos]
  · simp [State.raiseBond, State.bondFlag, h]

theorem raiseBond_moves (s : State) (b : BondId) (f : BondFlag) : BondMoves b s (s.raiseBond b f) :=
  { BondMoves.refl b s with
    time := ⟨rfl, rfl, rfl, rfl, rfl⟩
    otherPending := fun c hc => by simp [State.raiseBond, hc]
    keepsFlags := fun c g h => by simp [bondFlag_raiseBond, h] }

theorem Buffer.depthOk_clear (bf : Buffer) : bf.clear.DepthOk := ⟨Nat.zero_le _, fun _ => rfl⟩

theorem Buffer.depthOk_close {bf : Buffer} (h : bf.DepthOk) : bf.close.DepthOk := ⟨h.1, fun _ => rfl⟩

theorem Buffer.depthOk_openWith (bf : Buffer) (t : Word32) (u : Word) : (bf.openWith t u).DepthOk :=
  ⟨by simp [Buffer.openWith, Config.bufferDepth], fun h => absurd rfl h⟩

/-- An update of the buffers alone that keeps every one of them within its depth. -/
theorem bufs_moves {s : State} (b : BondId) (v : Eight Buffer)
    (h : (∀ n, (s.bufs.get n).DepthOk) → ∀ n, (v.get n).DepthOk) : BondMoves b s { s with bufs := v } :=
  { BondMoves.refl b s with time := ⟨rfl, rfl, rfl, rfl, rfl⟩, depth := h }

theorem clearBufs_moves (s : State) (b : BondId) (p : Lane → Bool) : BondMoves b s (s.clearBufs p) :=
  bufs_moves b _ fun h n => by
    simp only [Eight.get_mapIdx]
    split
    · exact Buffer.depthOk_clear _
    · exact h n

theorem closeBufs_moves (s : State) (b : BondId) (p : Lane → Bool) : BondMoves b s (s.closeBufs p) :=
  bufs_moves b _ fun h n => by
    simp only [Eight.get_mapIdx]
    split
    · exact Buffer.depthOk_close (h n)
    · exact h n

theorem modBuf_moves {s : State} (b : BondId) (n : Lane) {f : Buffer → Buffer}
    (h : ∀ bf : Buffer, bf.DepthOk → (f bf).DepthOk) : BondMoves b s (s.modBuf n f) :=
  bufs_moves b _ fun k m => by
    simp only [Eight.get_set]
    split
    · exact h _ (k n)
    · exact k m

theorem clearEntries_moves (s : State) (b : BondId) (p : Lane → Bool) : BondMoves b s (s.clearEntries b p) :=
  { BondMoves.refl b s with
    time := ⟨rfl, rfl, rfl, rfl, rfl⟩
    others := fun c hc => by simp [hc]
    cfg := by simp [Bond.send]
    result := by simp [Bond.send]
    inFlight := ⟨(s.bonds.get b).inFlight, s.clearNotices p, by simp [State.clearEntries, Bond.send], .refl _,
      fun x hx => by
        obtain ⟨n, _, rfl⟩ := List.mem_map.mp hx
        exact ⟨n, rfl⟩⟩
    line := by simp [Bond.send]
    active := by simp [Bond.send]
    counts := by simp [Bond.send]
    rolls := fun n => by
      simp only [State.clearEntries_get]
      split
      · exact .inr rfl
      · exact .inl rfl }

/-! ## The bond's own updates -/

/-- An update that leaves the named fields as they are, and the state and counts too. -/
theorem Bond.Keeps.of_eq {bd bd' : Bond} (hc : bd'.cfg = bd.cfg) (hr : bd'.result = bd.result)
    (hf : bd'.inFlight = bd.inFlight)
    (hl : bd'.lastSent = bd.lastSent) (hq : bd'.callSeq = bd.callSeq) (hk : bd'.lineKind = bd.lineKind)
    (hi : bd'.lineIndex = bd.lineIndex) (hg : bd'.rel.go = bd.rel.go) (hs : bd'.state = bd.state)
    (hn : bd'.retrain = bd.retrain) (ht : bd'.settle = bd.settle) : bd.Keeps bd' where
  cfg := hc
  result := hr
  inFlight := by rw [hf]
  lastSent := hl
  callSeq := hq
  lineKind := hk
  lineIndex := hi
  go := hg
  active := by rw [hs]; exact id
  counts := fun _ h => by
    refine ⟨fun h' => ?_, ?_⟩
    · rw [hn, hc]; exact h.1 (hs ▸ h')
    · rw [ht]; exact h.2

theorem Bond.Keeps.trans {a c d : Bond} (h : a.Keeps c) (k : c.Keeps d) : a.Keeps d where
  cfg := k.cfg.trans h.cfg
  result := k.result.trans h.result
  inFlight := k.inFlight.trans h.inFlight
  lastSent := k.lastSent.trans h.lastSent
  callSeq := k.callSeq.trans h.callSeq
  lineKind := k.lineKind.trans h.lineKind
  lineIndex := k.lineIndex.trans h.lineIndex
  go := k.go.trans h.go
  active := fun x => k.active (h.active x)
  counts := fun x c => k.counts (h.active x) (h.counts x c)

theorem Bond.endMend_keeps (bd : Bond) : bd.Keeps bd.endMend := by
  apply Bond.Keeps.of_eq <;> (unfold Bond.endMend; split <;> rfl)

theorem Bond.leaveRun_keeps (bd : Bond) : bd.Keeps bd.leaveRun := by
  apply Bond.Keeps.of_eq <;>
    (unfold Bond.leaveRun; dsimp only; split <;> (try split) <;> rfl)

theorem Bond.withdraw_keeps (bd : Bond) (n : Lane) : bd.Keeps (bd.withdraw n) := by
  apply Bond.Keeps.of_eq <;> (unfold Bond.withdraw; split <;> rfl)

/-- What the three ways out of a run share: the mend ends, the read side departs, the timers stop. -/
theorem Bond.depart_keeps (bd : Bond) : bd.Keeps bd.endMend.leaveRun.stopTimers :=
  (bd.endMend_keeps.trans (Bond.leaveRun_keeps _)).trans
    (Bond.Keeps.of_eq rfl rfl rfl rfl rfl rfl rfl rfl rfl rfl rfl)

/-- An update of the state and settle count that keeps the rest, into a state that is not DISABLED. -/
theorem Bond.Keeps.enter {bd bd' : Bond} (hc : bd'.cfg = bd.cfg) (hr : bd'.result = bd.result)
    (hf : bd'.inFlight.Sublist bd.inFlight)
    (hl : bd'.lastSent = bd.lastSent) (hq : bd'.callSeq = bd.callSeq) (hk : bd'.lineKind = bd.lineKind)
    (hi : bd'.lineIndex = bd.lineIndex) (hg : bd'.rel.go = bd.rel.go) (hs : bd'.state ≠ .disabled)
    (hn : bd'.retrain = bd.retrain) (ht : bd'.settle = bd.settle ∨ bd'.settle = 0) : bd.Keeps bd' where
  cfg := hc
  result := hr
  inFlight := hf
  lastSent := hl
  callSeq := hq
  lineKind := hk
  lineIndex := hi
  go := hg
  active := fun _ => hs
  counts := fun h' h => by
    refine ⟨fun _ => ?_, ?_⟩
    · rw [hn, hc]; exact h.1 h'
    · rcases ht with ht | ht <;> rw [ht]
      · exact h.2
      · exact Nat.zero_le _

theorem Bond.toHolding_keeps (bd : Bond) : bd.Keeps bd.toHolding :=
  bd.depart_keeps.trans (Bond.Keeps.enter rfl rfl (.refl _) rfl rfl rfl rfl rfl (by simp [Bond.toHolding]) rfl (.inr rfl))

theorem Bond.toCalling_keeps (bd : Bond) : bd.Keeps bd.toCalling :=
  Bond.Keeps.enter rfl rfl (.refl _) rfl rfl rfl rfl rfl (by simp [Bond.toCalling]) rfl (.inl rfl)

theorem Bond.toHalted_keeps (bd : Bond) : bd.Keeps bd.toHalted :=
  bd.depart_keeps.trans (Bond.Keeps.enter rfl rfl (.refl _) rfl rfl rfl rfl rfl (by simp [Bond.toHalted]) rfl (.inl rfl))

theorem Bond.capture_keeps (bd : Bond) (f : FaultRec) : bd.Keeps (bd.capture f) := by
  apply Bond.Keeps.of_eq <;> (unfold Bond.capture; split <;> rfl)

/-! ## Entries to states, and faults -/

theorem enterCalling_moves (b : BondId) (s : State) : BondMoves b s (enterCalling b s) :=
  (modBond_moves (Bond.toCalling_keeps _)).trans (clearEntries_moves _ b _)

theorem enterHolding_moves (b : BondId) (s : State) : BondMoves b s (enterHolding b s) := by
  have h : BondMoves b s ((s.modBond b Bond.toHolding).clearBufs (s.bonds.get b).cfg.names) :=
    (modBond_moves (Bond.toHolding_keeps _)).trans (clearBufs_moves _ b _)
  unfold enterHolding
  dsimp only
  split
  · exact h.trans (enterCalling_moves b _)
  · exact h

theorem enterHalted_moves (b : BondId) (s : State) : BondMoves b s (enterHalted b s) :=
  ((modBond_moves (Bond.toHalted_keeps _)).trans (closeBufs_moves _ b _)).trans (raiseBond_moves _ b _)

theorem captureFault_moves (b : BondId) (cause : FaultCause) (lane : Option Lane) (index : Option Index)
    (detail : Option Detail) (s : State) : BondMoves b s (captureFault b cause lane index detail s) :=
  (modBond_moves (f := fun bd => bd.capture ⟨cause, bd.state, lane, index, detail, s.timestamp⟩)
    (Bond.capture_keeps _ _)).trans (raiseBond_moves _ b _)

theorem Bond.capture_retrain (bd : Bond) (f : FaultRec) : (bd.capture f).retrain = bd.retrain := by
  unfold Bond.capture; split <;> rfl

theorem takeFault_moves (b : BondId) (cause : FaultCause) (lane : Option Lane) (index : Option Index)
    (detail : Option Detail) (s : State) : BondMoves b s (takeFault b cause lane index detail s) := by
  have h := captureFault_moves b cause lane index detail s
  unfold takeFault
  dsimp only
  split
  · rename_i hlt
    refine h.trans (BondMoves.trans (modBond_moves ?_) (enterHolding_moves b _))
    refine ⟨rfl, rfl, .refl _, rfl, rfl, rfl, rfl, rfl, fun x => x, fun _ c => ⟨fun _ => ?_, c.2⟩⟩
    have e : ((captureFault b cause lane index detail s).bonds.get b).retrain = (s.bonds.get b).retrain := by
      simp [captureFault, Bond.capture_retrain]
    show ((captureFault b cause lane index detail s).bonds.get b).retrain + 1
      ≤ ((captureFault b cause lane index detail s).bonds.get b).cfg.retrainLimit.toNat
    rw [e, h.cfg]
    exact hlt
  · exact h.trans (enterHalted_moves b _)

theorem takeLaneFault_moves (b : BondId) (cause : FaultCause) (n : Lane) (detail : Option Detail) (s : State) :
    BondMoves b s (takeLaneFault b cause n detail s) := takeFault_moves b _ _ _ _ s

/-! ## Roll call and mending -/

theorem enterAligning_moves (b : BondId) (p : Profile) (s : State) : BondMoves b s (enterAligning b p s) := by
  unfold enterAligning
  refine BondMoves.trans (modBond_moves ?_) (bufs_moves b _ fun h n => ?_)
  · exact Bond.Keeps.enter rfl rfl List.filter_sublist rfl rfl rfl rfl rfl (by simp) rfl (.inl rfl)
  · simp only [Eight.get_mapIdx]
    split
    · exact h n
    · exact ⟨(h n).1, fun _ => rfl⟩

theorem evaluateRollCall_moves (b : BondId) (s : State) : BondMoves b s (evaluateRollCall b s) := by
  unfold evaluateRollCall
  split
  · exact BondMoves.refl b s
  · split
    · exact takeFault_moves b _ _ _ _ s
    · exact enterAligning_moves b _ s

theorem startMend_moves (b : BondId) (n : Lane) (cause : TriggerCause) (s : State) :
    BondMoves b s (startMend b n cause s) := by
  unfold startMend
  refine BondMoves.trans (BondMoves.trans (BondMoves.trans (modBond_moves ?_) (clearBufs_moves _ b _))
    (clearEntries_moves _ b _)) (raiseBond_moves _ b _)
  exact Bond.Keeps.enter rfl rfl (.refl _) rfl rfl rfl rfl rfl (by simp) rfl (.inr rfl)

theorem runningLaneFault_moves (b : BondId) (n : Lane) (trigger : TriggerCause) (cause : FaultCause) (s : State) :
    BondMoves b s (runningLaneFault b n trigger cause s) := by
  unfold runningLaneFault
  split
  · exact startMend_moves b n trigger s
  · exact takeLaneFault_moves b cause n none s

theorem returnToAnnounce_moves (b : BondId) (joining : Lane) (s : State) :
    BondMoves b s (returnToAnnounce b joining s) :=
  (modBond_moves (Bond.Keeps.of_eq rfl rfl rfl rfl rfl rfl rfl rfl rfl rfl rfl)).trans
    (modBuf_moves b joining fun _ => Buffer.depthOk_close)

theorem mendCheck_moves (b : BondId) (m : MendRec) (p : Profile) (s : State) : BondMoves b s (mendCheck b m p s) := by
  unfold mendCheck
  split
  · exact takeFault_moves b _ _ _ _ s
  · exact modBond_moves (Bond.Keeps.of_eq rfl rfl rfl rfl rfl rfl rfl rfl rfl rfl rfl)

/-! ## Notices and reports -/

theorem bondTakesConfirmed_moves (b : BondId) (n : Lane) (s : State) : BondMoves b s (bondTakesConfirmed b n s) := by
  unfold bondTakesConfirmed
  dsimp only
  split
  · split
    · exact evaluateRollCall_moves b s
    · exact BondMoves.refl b s
  · split
    · split
      · exact mendCheck_moves b _ _ s
      · exact BondMoves.refl b s
    · exact BondMoves.refl b s
  all_goals exact BondMoves.refl b s

theorem bondTakesEntryStatus_moves (b : BondId) (n : Lane) (status : EntryStatus) (s : State) :
    BondMoves b s (bondTakesEntryStatus b n status s) := by
  cases status
  case confirmed => exact bondTakesConfirmed_moves b n s
  all_goals exact BondMoves.refl b s

theorem bondTakesLockGained_moves (b : BondId) (n : Lane) (s : State) : BondMoves b s (bondTakesLockGained b n s) := by
  unfold bondTakesLockGained
  dsimp only
  split
  · exact enterCalling_moves b s
  · exact BondMoves.refl b s

theorem mendingLockLost_moves (b : BondId) (m : MendRec) (n : Lane) (cause : LossCause) (s : State) :
    BondMoves b s (mendingLockLost b m n cause s) := by
  unfold mendingLockLost
  split
  · split
    · exact takeLaneFault_moves b _ _ _ s
    · exact BondMoves.refl b s
  · split
    · exact returnToAnnounce_moves b _ s
    · split
      · exact takeLaneFault_moves b _ _ _ s
      · exact BondMoves.refl b s

theorem bondTakesLockLost_moves (b : BondId) (n : Lane) (cause : LossCause) (s : State) :
    BondMoves b s (bondTakesLockLost b n cause s) := by
  unfold bondTakesLockLost
  dsimp only
  split
  case h_6 =>
    split
    · cases cause
      · exact runningLaneFault_moves b n _ _ s
      · exact runningLaneFault_moves b n _ _ s
      · exact takeLaneFault_moves b _ _ _ s
      · exact takeLaneFault_moves b _ _ _ s
    · exact BondMoves.refl b s
  case h_7 =>
    split
    · exact mendingLockLost_moves b _ _ _ s
    · exact BondMoves.refl b s
  all_goals first
    | exact BondMoves.refl b s
    | (split <;> first | exact takeLaneFault_moves b _ _ _ s | exact BondMoves.refl b s)

theorem mendingReport_moves (b : BondId) (m : MendRec) (n : Lane) (sub : SubCause) (s : State) :
    BondMoves b s (mendingReport b m n sub s) := by
  unfold mendingReport
  split
  · exact takeLaneFault_moves b _ _ _ s
  · exact BondMoves.refl b s

theorem bondTakesMarkSlip_moves (b : BondId) (n : Lane) (s : State) : BondMoves b s (bondTakesMarkSlip b n s) := by
  unfold bondTakesMarkSlip
  dsimp only
  split
  · split
    · exact takeLaneFault_moves b _ _ _ s
    · exact BondMoves.refl b s
  · split
    · exact runningLaneFault_moves b n _ _ s
    · exact BondMoves.refl b s
  · split
    · split
      · split
        · exact modBond_moves (Bond.Keeps.of_eq rfl rfl rfl rfl rfl rfl rfl rfl rfl rfl rfl)
        · exact BondMoves.refl b s
      · exact mendingReport_moves b _ n _ s
    · exact BondMoves.refl b s
  all_goals exact BondMoves.refl b s

theorem bondTakesOverflow_moves (b : BondId) (n : Lane) (s : State) : BondMoves b s (bondTakesOverflow b n s) := by
  unfold bondTakesOverflow
  dsimp only
  split
  · exact takeLaneFault_moves b _ _ _ s
  · exact BondMoves.refl b s

theorem bondTakesUnderflow_moves (b : BondId) (n : Lane) (s : State) : BondMoves b s (bondTakesUnderflow b n s) := by
  unfold bondTakesUnderflow
  dsimp only
  split
  · split
    · exact runningLaneFault_moves b n _ _ s
    · exact BondMoves.refl b s
  · split
    · exact mendingReport_moves b _ n _ s
    · exact BondMoves.refl b s
  all_goals exact BondMoves.refl b s

theorem bondTakesSkew_moves (b : BondId) (lane : Option Lane) (units : Nat) (s : State) :
    BondMoves b s (bondTakesSkew b lane units s) := by
  unfold bondTakesSkew
  split
  · exact takeFault_moves b _ _ _ _ s
  · exact BondMoves.refl b s

theorem bondTakesReleased_moves (b : BondId) (s : State) : BondMoves b s (bondTakesReleased b s) := by
  unfold bondTakesReleased
  split
  · refine BondMoves.trans (modBond_moves ?_) (raiseBond_moves _ b _)
    exact Bond.Keeps.enter rfl rfl (.refl _) rfl rfl rfl rfl rfl (by simp [Bond.toRunning]) rfl (.inl rfl)
  · exact BondMoves.refl b s

theorem Bond.settleSweep_keeps (bd : Bond) (whole : Bool) : bd.Keeps (bd.settleSweep whole) := by
  unfold Bond.settleSweep
  split
  · rename_i h
    refine ⟨rfl, rfl, .refl _, rfl, rfl, rfl, rfl, rfl, fun x => x, fun x c => ⟨fun _ => ?_, h.2.2⟩⟩
    have := c.1 x
    dsimp only
    split
    · exact Nat.zero_le _
    · exact this
  · exact Bond.Keeps.of_eq rfl rfl rfl rfl rfl rfl rfl rfl rfl rfl rfl

theorem bondTakesEpochDrift_moves (b : BondId) (s : State) : BondMoves b s (bondTakesEpochDrift b s) := by
  unfold bondTakesEpochDrift
  split
  · exact takeFault_moves b _ _ _ _ s
  · exact BondMoves.refl b s

/-- Whatever a bond takes, it is a move of its own. -/
theorem bondTakes_moves (b : BondId) (x : Notice) (s : State) : BondMoves b s (bondTakes b x s) := by
  cases x
  · exact bondTakesLockGained_moves b _ s
  · exact bondTakesLockLost_moves b _ _ s
  · exact bondTakesEntryStatus_moves b _ _ s
  · exact bondTakesMarkSlip_moves b _ s
  · exact bondTakesOverflow_moves b _ s
  · exact bondTakesSkew_moves b _ _ s
  · exact bondTakesReleased_moves b s
  · exact modBond_moves (Bond.settleSweep_keeps _ _)
  · exact bondTakesUnderflow_moves b _ s
  · exact bondTakesEpochDrift_moves b s

/-- What entry to ALIGNING counts as arrived has no effect on a bond in CALLING (R75, R81, R91). -/
theorem bondTakes_calling {b : BondId} {x : Notice} {s : State} (h : (s.bonds.get b).state = .calling)
    (hx : x.actsInCalling (s.bonds.get b).cfg = false) : bondTakes b x s = s := by
  cases x <;>
    simp_all [Notice.actsInCalling, bondTakes, bondTakesLockGained, bondTakesLockLost, bondTakesMarkSlip,
      bondTakesOverflow, bondTakesSkew, bondTakesReleased, bondTakesUnderflow, bondTakesEpochDrift, Bond.settleSweep,
      State.modBond]

/-- What the completion of a seat counts as arrived has no effect on a bond in MENDING (R75, R128, R138). -/
theorem bondTakes_mending {b : BondId} {x : Notice} {m : MendRec} {s : State} (h : (s.bonds.get b).state = .mending)
    (hm : (s.bonds.get b).mend = some m) (hx : x.actsInMend (s.bonds.get b).cfg m = false) : bondTakes b x s = s := by
  cases x
  case entryStatus n status =>
    cases status <;> simp_all [Notice.actsInMend, bondTakes, bondTakesEntryStatus, bondTakesConfirmed]
    split <;> simp_all
    exact fun e => absurd e.symm hx
  case lockLost n cause =>
    cases cause <;> simp_all [Notice.actsInMend, bondTakes, bondTakesLockLost, mendingLockLost]
  all_goals
    simp_all [Notice.actsInMend, bondTakes, bondTakesLockGained, bondTakesMarkSlip, bondTakesOverflow, bondTakesSkew,
      bondTakesReleased, bondTakesUnderflow, bondTakesEpochDrift, mendingReport, Bond.settleSweep, State.modBond]

/-! ## What is on its way to a bond -/

/-- The state with another list on its way to a bond. -/
def State.withInFlight (s : State) (b : BondId) (xs : List Notice) : State :=
  s.modBond b fun bd => { bd with inFlight := xs }

theorem State.withInFlight_self (s : State) (b : BondId) : s.withInFlight b (s.bonds.get b).inFlight = s := by
  have h : ({ s.bonds.get b with inFlight := (s.bonds.get b).inFlight } : Bond) = s.bonds.get b := rfl
  simp only [State.withInFlight, State.modBond, h, Four.set_get]

/-- A move with nothing changed on its way, in the form of one with a change there. -/
theorem BondMoves.inFlight_self {b : BondId} {s t : State} (h : BondMoves b s t) :
    ∃ xs, BondMoves b (s.withInFlight b xs) t :=
  ⟨(s.bonds.get b).inFlight, by rw [s.withInFlight_self b]; exact h⟩

/-- A notice sent late only joins what is on its way. -/
theorem tell_late (s : State) (b : BondId) (x : Notice) :
    s.tell b x true = s.withInFlight b ((s.bonds.get b).inFlight ++ [x]) := rfl

/-- What is on its way to a bond does not bear on what its move leaves alone. -/
theorem BondMoves.withInFlight {b : BondId} {s t : State} (h : BondMoves b s t) (xs : List Notice) :
    BondMoves b (s.withInFlight b xs) (t.withInFlight b xs) where
  lanes := h.lanes
  snap := h.snap
  port := h.port
  time := ⟨h.time.timestamp, h.time.refmon, h.time.slotDue, h.time.lineStarted, h.time.pending⟩
  others := fun c hc => by simpa [State.withInFlight, hc] using h.others c hc
  globalPending := h.globalPending
  lanePending := h.lanePending
  otherPending := h.otherPending
  keepsFlags := h.keepsFlags
  enables := h.enables
  rolls := h.rolls
  depth := h.depth
  cfg := by simpa [State.withInFlight] using h.cfg
  result := by simpa [State.withInFlight] using h.result
  inFlight := .of_sublist (by simp [State.withInFlight])
  line := by simpa [State.withInFlight] using h.line
  active := by simpa [State.withInFlight] using h.active
  counts := by simpa [State.withInFlight] using h.counts

theorem State.withInFlight_withInFlight (s : State) (b : BondId) (xs ys : List Notice) :
    (s.withInFlight b xs).withInFlight b ys = s.withInFlight b ys := by
  simp [State.withInFlight, State.modBond]

/-- Two moves, each with a change of what is on its way, make one. -/
theorem BondMoves.trans_inFlight {b : BondId} {s t u : State} (h : ∃ xs, BondMoves b (s.withInFlight b xs) t)
    (k : ∃ ys, BondMoves b (t.withInFlight b ys) u) : ∃ zs, BondMoves b (s.withInFlight b zs) u := by
  obtain ⟨xs, h⟩ := h
  obtain ⟨ys, k⟩ := k
  have := h.withInFlight ys
  rw [State.withInFlight_withInFlight] at this
  exact ⟨ys, this.trans k⟩

/-- A move with a change of what is on its way, repeated for each entry of a list. -/
theorem foldl_moves {α : Type} {b : BondId} {f : State → State} (h : ∀ s, ∃ xs, BondMoves b (s.withInFlight b xs) (f s))
    (l : List α) (s : State) : ∃ xs, BondMoves b (s.withInFlight b xs) (l.foldl (fun s _ => f s) s) := by
  induction l generalizing s with
  | nil => exact (BondMoves.refl b s).inFlight_self
  | cons _ rest ih => exact BondMoves.trans_inFlight (h s) (ih (f s))

/-- What taking the earliest message leaves on its way: of the rest. -/
theorem takeFirst_inFlight {b : BondId} {s : State} {x : Notice} {rest : List Notice}
    (h : (s.bonds.get b).inFlight = x :: rest) : LeftInFlight rest ((takeFirst b s).bonds.get b).inFlight := by
  simp only [takeFirst, h]
  simpa using (bondTakes_moves b x (s.modBond b fun bd => { bd with inFlight := rest })).inFlight

theorem takeFirst_moves (b : BondId) (s : State) : ∃ xs, BondMoves b (s.withInFlight b xs) (takeFirst b s) := by
  unfold takeFirst
  split
  · exact ⟨_, bondTakes_moves b _ _⟩
  · exact (BondMoves.refl b s).inFlight_self

/-- Apart from what is on its way, taking the next notice of a sender makes the bond move. -/
theorem takeNext_moves (b : BondId) (x : Sender) (s : State) :
    ∃ xs, BondMoves b (s.withInFlight b xs) (takeNext b x s) := by
  unfold takeNext
  split
  · exact ⟨_, bondTakes_moves b _ _⟩
  · exact (BondMoves.refl b s).inFlight_self

/-- With nothing of a sender on its way a bond takes nothing from it. -/
theorem takeFrom_none {s : State} {b : BondId} {x : Sender} (h : ∀ y ∈ (s.bonds.get b).inFlight, y.sender ≠ x) :
    takeFrom b x s = s := by
  have e : (s.bonds.get b).inFlight.filter (fun y => y.sender == x) = [] := by
    simpa [List.filter_eq_nil_iff] using h
  simp only [takeFrom, e, List.foldl_nil]

/-- Apart from what is on its way, what a bond takes from one sender makes it move. -/
theorem takeFrom_moves (b : BondId) (x : Sender) (s : State) :
    ∃ xs, BondMoves b (s.withInFlight b xs) (takeFrom b x s) := foldl_moves (takeNext_moves b x) _ s

/-- With nothing of a sender on its way to any bond, none takes anything from it. -/
theorem arrivedFrom_none {s : State} {x : Sender} (h : ∀ b, ∀ y ∈ (s.bonds.get b).inFlight, y.sender ≠ x) :
    s.arrivedFrom x = s := by
  simp only [State.arrivedFrom, allBonds, List.foldl]
  rw [takeFrom_none (h 0), takeFrom_none (h 1), takeFrom_none (h 2), takeFrom_none (h 3)]

/-- Of the messages of a sender other than the roll-call unit, what a bond's move leaves is no more than before. -/
theorem LeftInFlight.countP_le {xs ys : List Notice} (h : LeftInFlight xs ys) {x : Sender} (hx : x ≠ .rollCall) :
    ys.countP (fun y => y.sender == x) ≤ xs.countP fun y => y.sender == x := by
  obtain ⟨as, es, rfl, ha, he⟩ := h
  have : es.countP (fun y => y.sender == x) = 0 := by
    rw [List.countP_eq_zero]
    intro y hy
    obtain ⟨n, rfl⟩ := he y hy
    simpa [Notice.sender] using fun h => hx h.symm
  rw [List.countP_append, this]
  exact ha.countP_le

/-- Taking the next message of a sender leaves one fewer of its messages on its way. -/
theorem takeNext_countP (b : BondId) {x : Sender} (hx : x ≠ .rollCall) (s : State) :
    ((takeNext b x s).bonds.get b).inFlight.countP (fun y => y.sender == x)
      ≤ ((s.bonds.get b).inFlight.countP fun y => y.sender == x) - 1 := by
  unfold takeNext
  split
  · rename_i y hy
    have hmem := List.mem_of_find?_eq_some hy
    have hp := List.find?_some hy
    have h := (bondTakes_moves b y (s.modBond b fun bd =>
      { bd with inFlight := bd.inFlight.eraseP fun y => y.sender == x })).inFlight.countP_le hx
    refine h.trans ?_
    rw [show ((s.modBond b fun bd => { bd with inFlight := bd.inFlight.eraseP fun y => y.sender == x }).bonds.get b).inFlight
      = (s.bonds.get b).inFlight.eraseP fun y => y.sender == x from by simp]
    generalize (s.bonds.get b).inFlight = l at hmem
    induction l with
    | nil => simp at hmem
    | cons z rest ih =>
      by_cases hz : (z.sender == x) = true
      · simp [hz]
      · have hm : y ∈ rest := (List.mem_cons.mp hmem).resolve_left fun e => hz (e ▸ hp)
        simpa [List.countP_cons, hz] using ih hm
  · rename_i hn
    have : (s.bonds.get b).inFlight.countP (fun y => y.sender == x) = 0 := by
      rw [List.countP_eq_zero]; simpa using hn
    omega

/-- A bond that has taken what a sender had on its way has nothing of it left there; the roll-call unit may have sent
notices of entries cleared meanwhile. -/
theorem takeFrom_done (b : BondId) {x : Sender} (hx : x ≠ .rollCall) (s : State) :
    ∀ y ∈ ((takeFrom b x s).bonds.get b).inFlight, y.sender ≠ x := by
  have h : ∀ (l : List Notice) (s : State), (s.bonds.get b).inFlight.countP (fun y => y.sender == x) ≤ l.length →
      ((l.foldl (fun s _ => takeNext b x s) s).bonds.get b).inFlight.countP (fun y => y.sender == x) = 0 := by
    intro l
    induction l with
    | nil => intro s h; exact Nat.le_zero.mp h
    | cons _ rest ih =>
      intro s h
      refine ih _ ((takeNext_countP b hx s).trans ?_)
      simp only [List.length_cons] at h
      omega
  have := h ((s.bonds.get b).inFlight.filter fun y => y.sender == x) s (by rw [List.countP_eq_length_filter])
  simpa [takeFrom] using List.countP_eq_zero.mp this

/-- After the arrival of a lane receiver's messages none of them is on its way to any bond. -/
theorem arrivedFrom_done (n : Lane) (s : State) (b : BondId) :
    ∀ y ∈ ((s.arrivedFrom (.receiver n)).bonds.get b).inFlight, y.sender ≠ .receiver n := by
  have h : ∀ (bs : List BondId) (s : State),
      (b ∈ bs ∨ ∀ y ∈ (s.bonds.get b).inFlight, y.sender ≠ .receiver n) →
      ∀ y ∈ ((bs.foldl (fun s c => takeFrom c (.receiver n) s) s).bonds.get b).inFlight, y.sender ≠ .receiver n := by
    intro bs
    induction bs with
    | nil => intro s h; simpa using h
    | cons c rest ih =>
      intro s h
      refine ih _ ?_
      by_cases hc : b = c
      · subst hc
        exact .inr (takeFrom_done b (by simp) s)
      · have e : (takeFrom c (.receiver n) s).bonds.get b = s.bonds.get b := by
          obtain ⟨xs, h⟩ := takeFrom_moves c (.receiver n) s
          exact (h.others b hc).trans (by simp [State.withInFlight, hc])
        rw [e]
        exact h.imp_left fun h => (List.mem_cons.mp h).resolve_left hc
  exact h allBonds s (.inl ((by decide : ∀ c, c ∈ allBonds) b))

/-- A notice sent with nothing of its sender on its way is taken at once. -/
theorem tell_now {s : State} {b : BondId} {x : Notice} (h : ∀ y ∈ (s.bonds.get b).inFlight, y.sender ≠ x.sender) :
    s.tell b x false = bondTakes b x s := by
  simp only [State.tell, Bool.false_eq_true, if_false, takeFrom_none h]

/-- Apart from what is on its way, a notice sent makes the bond move, late or not. -/
theorem tell_moves (s : State) (b : BondId) (x : Notice) (late : Bool) :
    ∃ xs, BondMoves b (s.withInFlight b xs) (s.tell b x late) := by
  cases late
  · exact BondMoves.trans_inFlight (takeFrom_moves b _ s) (bondTakes_moves b x _).inFlight_self
  · exact ⟨_, BondMoves.refl b _⟩

/-- With nothing on its way a bond takes nothing. -/
theorem takeSent_nil {s : State} {b : BondId} (h : (s.bonds.get b).inFlight = []) : takeSent b s = s := by
  simp only [takeSent, h, List.foldl_nil]

theorem takeInFlight_nil {s : State} {b : BondId} (h : (s.bonds.get b).inFlight = []) : takeInFlight b s = s := by
  simp only [takeInFlight, takeSent_nil h]

theorem takeSent_moves (b : BondId) (s : State) : ∃ xs, BondMoves b (s.withInFlight b xs) (takeSent b s) :=
  foldl_moves (takeFirst_moves b) _ s

/-- What is on its way to a bond that has taken what was: the notices of the entries it has cleared meanwhile. -/
theorem takeSent_inFlight (b : BondId) (s : State) :
    ∀ x ∈ ((takeSent b s).bonds.get b).inFlight, ∃ n, x = .entryStatus n .empty := by
  have h : ∀ (l : List Notice) (s : State) (as es : List Notice), (s.bonds.get b).inFlight = as ++ es →
      as.length ≤ l.length → (∀ x ∈ es, ∃ n, x = .entryStatus n .empty) →
      ∀ x ∈ ((l.foldl (fun s _ => takeFirst b s) s).bonds.get b).inFlight, ∃ n, x = .entryStatus n .empty := by
    intro l
    induction l with
    | nil =>
      intro s as es e hl he
      have : as = [] := List.length_eq_zero_iff.mp (Nat.le_zero.mp hl)
      subst this
      simpa [e] using he
    | cons _ rest ih =>
      intro s as es e hl he
      match hs : (s.bonds.get b).inFlight with
      | [] => exact ih _ [] [] (by simp [takeFirst, hs]) (Nat.zero_le _) (by simp)
      | x :: tail =>
        obtain ⟨cs, fs, e', hc, hf⟩ := takeFirst_inFlight hs
        have ⟨bs, ds, ht, hb, hd⟩ : ∃ bs ds, tail = bs ++ ds ∧ bs.length ≤ rest.length
            ∧ ∀ x ∈ ds, ∃ n, x = Notice.entryStatus n .empty := by
          rw [hs] at e
          cases as with
          | nil => exact ⟨[], tail, rfl, Nat.zero_le _, fun y hy => he y (by rw [← List.nil_append es, ← e]; simp [hy])⟩
          | cons a as =>
            refine ⟨as, es, (List.cons.inj e).2, ?_, he⟩
            simp only [List.length_cons] at hl
            omega
        subst ht
        obtain ⟨p, q, rfl, hp, hq⟩ := List.sublist_append_iff.mp hc
        refine ih _ p (q ++ fs) (by simpa using e') (hp.length_le.trans hb) fun y hy => ?_
        rcases List.mem_append.mp hy with hy | hy
        · exact hd y (hq.subset hy)
        · exact hf y hy
  exact h _ s _ [] (List.append_nil _).symm (Nat.le_refl _) (by simp)

/-- Notices of cleared entries bring nothing about (R81, R128). -/
theorem takeSent_cleared (b : BondId) (s : State)
    (h : ∀ x ∈ (s.bonds.get b).inFlight, ∃ n, x = .entryStatus n .empty) : takeSent b s = s.withInFlight b [] := by
  unfold takeSent
  generalize e : (s.bonds.get b).inFlight = l at *
  induction l generalizing s with
  | nil => rw [List.foldl_nil, ← e, State.withInFlight_self]
  | cons x rest ih =>
    obtain ⟨n, rfl⟩ := h x (by simp)
    have e' : takeFirst b s = s.withInFlight b rest := by simp only [takeFirst, e]; rfl
    rw [List.foldl_cons, e', ih (s.withInFlight b rest) (by simp [State.withInFlight]) (fun y hy => h y (by simp [hy])),
      State.withInFlight_withInFlight]

/-- All that is on its way to a bond is taken by taking what is there now; the rest is notices without an effect. -/
theorem takeInFlight_eq (b : BondId) (s : State) : takeInFlight b s = (takeSent b s).withInFlight b [] :=
  takeSent_cleared b _ (takeSent_inFlight b s)

theorem takeInFlight_moves (b : BondId) (s : State) : ∃ xs, BondMoves b (s.withInFlight b xs) (takeInFlight b s) :=
  BondMoves.trans_inFlight (takeSent_moves b s) (takeSent_moves b _)

/-- After a bond has taken what was on its way, nothing is. -/
theorem takeInFlight_done (b : BondId) (s : State) : ((takeInFlight b s).bonds.get b).inFlight = [] := by
  rw [takeInFlight_eq]
  simp [State.withInFlight]

/-- With nothing on its way to any bond, none takes anything. -/
theorem landed_nil {s : State} (h : ∀ b, (s.bonds.get b).inFlight = []) : s.landed = s := by
  simp only [State.landed, allBonds, List.foldl]
  rw [takeInFlight_nil (h 0), takeInFlight_nil (h 1), takeInFlight_nil (h 2), takeInFlight_nil (h 3)]

/-! ## Start marks, candidates and slots -/

theorem ReleaseUnit.aligned_go (r : ReleaseUnit) (cfg : BondConfig) (earliest : Word32) (skew : Nat) :
    (r.aligned cfg earliest skew).go = r.go := by
  unfold ReleaseUnit.aligned; split <;> rfl

/-- What an update of the bond's row and a notice after it make of the state. -/
theorem modBond_tell_moves {s : State} {b : BondId} {f : Bond → Bond} (x : Notice) (late : Bool)
    (h : (s.bonds.get b).Keeps (f (s.bonds.get b))) :
    ∃ xs, BondMoves b (s.withInFlight b xs) ((s.modBond b f).tell b x late) :=
  BondMoves.trans_inFlight (modBond_moves h).inFlight_self (tell_moves _ b x late)

theorem measureSkew_moves (b : BondId) (earliest : Word32) (late : Bool) (s : State) :
    ∃ xs, BondMoves b (s.withInFlight b xs) (measureSkew b earliest late s) := by
  unfold measureSkew
  dsimp only
  split
  · exact modBond_tell_moves _ late (Bond.Keeps.of_eq rfl rfl rfl rfl rfl rfl rfl rfl rfl rfl rfl)
  · apply BondMoves.inFlight_self
    refine BondMoves.trans ?_ (modBond_moves
      (Bond.Keeps.of_eq rfl rfl rfl rfl rfl rfl rfl (ReleaseUnit.aligned_go _ _ _ _) rfl rfl rfl))
    exact modBond_moves (Bond.Keeps.of_eq rfl rfl rfl rfl rfl rfl rfl rfl rfl rfl rfl)

theorem takeStartMark_moves (b : BondId) (n : Lane) (t : Word32) (late : Bool) (s : State) :
    ∃ xs, BondMoves b (s.withInFlight b xs) (takeStartMark b n t late s) := by
  unfold takeStartMark
  refine BondMoves.trans_inFlight (t := if (s.bonds.get b).rel.overdue t then takeInFlight b s else s) ?_ ?_
  · split
    · exact takeInFlight_moves b s
    · exact (BondMoves.refl b s).inFlight_self
  · generalize (if (s.bonds.get b).rel.overdue t then takeInFlight b s else s) = s
    dsimp only
    split
    · have h := fun r : ReleaseUnit => fun hr : r.go = (s.bonds.get b).rel.go =>
        (modBond_moves (s := s) (b := b) (f := fun bd => { bd with rel := r })
          (Bond.Keeps.of_eq rfl rfl rfl rfl rfl rfl rfl hr rfl rfl rfl)).inFlight_self
      split
      · exact BondMoves.trans_inFlight (h ((s.bonds.get b).rel.recordArrival _ t) rfl) (measureSkew_moves b _ late _)
      · exact h ((s.bonds.get b).rel.recordArrival _ t) rfl
    · exact (BondMoves.refl b s).inFlight_self

theorem takeSeatMark_moves (b : BondId) (m : MendRec) (t : Word32) (u : Word) (s : State) :
    BondMoves b s (takeSeatMark b m t u s) := by
  unfold takeSeatMark
  dsimp only
  split
  · have h : ∀ d : Int, BondMoves b s (s.modBond b fun bd => bd.modMend fun m => { m with offset := some d }) :=
      fun d => modBond_moves (Bond.Keeps.of_eq rfl rfl rfl rfl rfl rfl rfl rfl rfl rfl rfl)
    split
    · exact (h _).trans (BondMoves.trans
        (modBond_moves (Bond.Keeps.of_eq rfl rfl rfl rfl rfl rfl rfl rfl rfl rfl rfl))
        (modBuf_moves b _ fun bf _ => Buffer.depthOk_openWith bf t u))
    · exact (h _).trans (takeFault_moves b _ _ _ _ _)
  · exact BondMoves.refl b s

theorem bondTakesCandidate_moves (b : BondId) (n : Lane) (t : Word32) (u : Word) (s : State) :
    BondMoves b s (bondTakesCandidate b n t u s) := by
  unfold bondTakesCandidate
  dsimp only
  split
  · split
    · exact takeSeatMark_moves b _ t u s
    · exact BondMoves.refl b s
  · exact BondMoves.refl b s

theorem reportCandidate_moves (b : BondId) (n : Lane) (t : Word32) (u : Word) (s : State) :
    ∃ xs, BondMoves b (s.withInFlight b xs) (reportCandidate b n t u s) := by
  unfold reportCandidate
  split
  · exact BondMoves.trans_inFlight (takeFrom_moves b _ s) (bondTakesCandidate_moves b n t u _).inFlight_self
  · exact (BondMoves.refl b s).inFlight_self

/-! ## Through the owning bond -/

/-- Some bond controller moved, perhaps with a change of what is on its way to it, or none did. -/
def SomeBondMoves (s t : State) : Prop := t = s ∨ ∃ b xs, BondMoves b (s.withInFlight b xs) t

theorem BondMoves.some {b : BondId} {s t : State} (h : BondMoves b s t) : SomeBondMoves s t :=
  .inr ⟨b, h.inFlight_self⟩

theorem toOwner_moves {s : State} {n : Lane} {take : BondId → State → State}
    (h : ∀ b, SomeBondMoves s (take b s)) : SomeBondMoves s (s.toOwner n take) := by
  unfold State.toOwner
  split
  · exact h _
  · exact .inl rfl

theorem tellOwner_moves (s : State) (n : Lane) (x : Notice) (late : Bool) :
    SomeBondMoves s (s.tellOwner n x late) := toOwner_moves fun b => .inr ⟨b, tell_moves s b x late⟩

/-- What every bond's move leaves alone, whichever bond moved. -/
theorem SomeBondMoves.lanes {s t : State} (h : SomeBondMoves s t) : t.lanes = s.lanes := by
  rcases h with h | ⟨b, xs, h⟩
  · rw [h]
  · exact h.lanes

theorem SomeBondMoves.time {s t : State} (h : SomeBondMoves s t) : State.SameTime s t := by
  rcases h with h | ⟨b, xs, h⟩
  · rw [h]; exact ⟨rfl, rfl, rfl, rfl, rfl⟩
  · exact ⟨h.time.timestamp, h.time.refmon, h.time.slotDue, h.time.lineStarted, h.time.pending⟩

theorem SomeBondMoves.port {s t : State} (h : SomeBondMoves s t) : t.port = s.port := by
  rcases h with h | ⟨b, xs, h⟩
  · rw [h]
  · exact h.port

theorem SomeBondMoves.snap {s t : State} (h : SomeBondMoves s t) : t.snap = s.snap := by
  rcases h with h | ⟨b, xs, h⟩
  · rw [h]
  · exact h.snap

theorem SomeBondMoves.rolls {s t : State} (h : SomeBondMoves s t) (n : Lane) :
    t.rolls.get n = s.rolls.get n ∨ t.rolls.get n = (s.rolls.get n).clearEntry := by
  rcases h with h | ⟨b, xs, h⟩
  · rw [h]; exact .inl rfl
  · exact h.rolls n

theorem SomeBondMoves.depth {s t : State} (h : SomeBondMoves s t) (d : ∀ n, (s.bufs.get n).DepthOk) :
    ∀ n, (t.bufs.get n).DepthOk := by
  rcases h with h | ⟨b, xs, h⟩
  · rw [h]; exact d
  · exact h.depth d

theorem SomeBondMoves.lanePending {s t : State} (h : SomeBondMoves s t) :
    t.irq.lanePending = s.irq.lanePending := by
  rcases h with h | ⟨b, xs, h⟩
  · rw [h]
  · exact h.lanePending

end Sys2Proof.Machine
end

