-- ==== Sys2Proof/Laws/Blocks.lean ====
section
/-! SUPPORT. What the blocks behind a lane (the write side, the read side, the owning bond) leave alone when they take a
symbol or a slot: one structure and one lemma for each shared operation. -/

namespace Sys2Proof.Machine

/-- What a bond or a buffer does with an event: no lane, no snapshot, no host port, no lane flag moves. -/
structure LanesStay (s t : State) : Prop where
  lanes : t.lanes = s.lanes
  snap : t.snap = s.snap
  port : t.port = s.port
  time : State.SameTime s t
  globalPending : t.irq.globalPending = s.irq.globalPending
  lanePending : t.irq.lanePending = s.irq.lanePending
  keepsFlags : ∀ c f, s.bondFlag c f = true → t.bondFlag c f = true
  enables : t.irq.globalEnable = s.irq.globalEnable ∧ t.irq.laneEnable = s.irq.laneEnable
    ∧ t.irq.bondEnable = s.irq.bondEnable ∧ t.irq.level = s.irq.level ∧ t.irq.drive = s.irq.drive
  rolls : ∀ n, t.rolls.get n = s.rolls.get n ∨ t.rolls.get n = (s.rolls.get n).clearEntry
  depth : (∀ n, (s.bufs.get n).DepthOk) → ∀ n, (t.bufs.get n).DepthOk
  line : ∀ c, (s.bonds.get c).LineOk → (t.bonds.get c).LineOk
  counts : (∀ c, (s.bonds.get c).CountsOk) → ∀ c, (t.bonds.get c).CountsOk

namespace LanesStay

theorem refl (s : State) : LanesStay s s where
  lanes := rfl
  snap := rfl
  port := rfl
  time := ⟨rfl, rfl, rfl, rfl, rfl⟩
  globalPending := rfl
  lanePending := rfl
  keepsFlags := fun _ _ h => h
  enables := ⟨rfl, rfl, rfl, rfl, rfl⟩
  rolls := fun _ => .inl rfl
  depth := fun h => h
  line := fun _ h => h
  counts := fun h => h

theorem trans {s t u : State} (h : LanesStay s t) (k : LanesStay t u) : LanesStay s u where
  lanes := k.lanes.trans h.lanes
  snap := k.snap.trans h.snap
  port := k.port.trans h.port
  time := ⟨k.time.timestamp.trans h.time.timestamp, k.time.refmon.trans h.time.refmon,
    k.time.slotDue.trans h.time.slotDue, k.time.lineStarted.trans h.time.lineStarted,
    k.time.pending.trans h.time.pending⟩
  globalPending := k.globalPending.trans h.globalPending
  lanePending := k.lanePending.trans h.lanePending
  keepsFlags := fun c f hf => k.keepsFlags c f (h.keepsFlags c f hf)
  enables := by
    obtain ⟨a, b, c, d, e⟩ := h.enables
    obtain ⟨a', b', c', d', e'⟩ := k.enables
    exact ⟨a'.trans a, b'.trans b, c'.trans c, d'.trans d, e'.trans e⟩
  rolls := fun n => by
    rcases k.rolls n with k | k <;> rcases h.rolls n with h | h <;> rw [k, h]
    · exact .inl rfl
    · exact .inr rfl
    · exact .inr rfl
    · exact .inr rfl
  depth := fun d => k.depth (h.depth d)
  line := fun c l => k.line c (h.line c l)
  counts := fun x => k.counts (h.counts x)

end LanesStay

/-- A bond that is not DISABLED moves. -/
theorem BondMoves.lanesStay {b : BondId} {s t : State} (h : BondMoves b s t)
    (active : (s.bonds.get b).state ≠ .disabled) : LanesStay s t where
  lanes := h.lanes
  snap := h.snap
  port := h.port
  time := h.time
  globalPending := h.globalPending
  lanePending := h.lanePending
  keepsFlags := h.keepsFlags
  enables := h.enables
  rolls := h.rolls
  depth := h.depth
  line := fun c hl => by
    by_cases hc : c = b
    · subst hc
      obtain ⟨a, _, c, d, e⟩ := h.line
      unfold Bond.LineOk at hl ⊢
      rw [a, c, d, e]
      exact hl
    · rw [h.others c hc]; exact hl
  counts := fun hall c => by
    by_cases hc : c = b
    · subst hc; exact h.counts active (hall c)
    · rw [h.others c hc]; exact hall c

/-- An owning bond is not DISABLED. -/
theorem owner_active {s : State} {n : Lane} {b : BondId} (h : s.owner n = some b) :
    (s.bonds.get b).state ≠ .disabled := by
  have h := List.find?_some h
  simp only [Bond.claims, Bool.and_eq_true, bne_iff_ne, ne_eq] at h
  exact h.1

/-- Another list on its way to a bond. -/
theorem withInFlight_lanesStay (s : State) (b : BondId) (xs : List Notice) : LanesStay s (s.withInFlight b xs) :=
  { LanesStay.refl s with
    time := ⟨rfl, rfl, rfl, rfl, rfl⟩
    line := fun c h => by
      by_cases hc : c = b
      · subst hc; simpa [State.withInFlight] using h
      · simpa [State.withInFlight, hc] using h
    counts := fun h c => by
      by_cases hc : c = b
      · subst hc; simpa [State.withInFlight] using h c
      · simpa [State.withInFlight, hc] using h c }

/-- A bond that is not DISABLED moves, with a change of what is on its way to it. -/
theorem BondMoves.lanesStay_of_inFlight {b : BondId} {s t : State} {xs : List Notice}
    (h : BondMoves b (s.withInFlight b xs) t) (active : (s.bonds.get b).state ≠ .disabled) : LanesStay s t :=
  (withInFlight_lanesStay s b xs).trans (h.lanesStay (by simpa [State.withInFlight] using active))

theorem toOwner_lanesStay {s : State} {n : Lane} {take : BondId → State → State}
    (h : ∀ b, ∃ xs, BondMoves b (s.withInFlight b xs) (take b s)) : LanesStay s (s.toOwner n take) := by
  unfold State.toOwner
  split
  · rename_i b hb
    obtain ⟨xs, h⟩ := h b
    exact h.lanesStay_of_inFlight (owner_active hb)
  · exact LanesStay.refl s

theorem tellOwner_lanesStay (n : Lane) (x : Notice) (late : Bool) (s : State) :
    LanesStay s (s.tellOwner n x late) := toOwner_lanesStay fun b => tell_moves s b x late

/-- A DISABLED bond takes no notice and no report (R75). -/
theorem bondTakes_disabled {b : BondId} {s : State} (x : Notice) (h : (s.bonds.get b).state = .disabled) :
    bondTakes b x s = s := by
  cases x
  case entryStatus n status => cases status <;> simp [bondTakes, bondTakesEntryStatus, bondTakesConfirmed, h]
  all_goals
    simp [bondTakes, bondTakesLockGained, bondTakesLockLost, bondTakesMarkSlip, bondTakesOverflow, bondTakesSkew,
      bondTakesReleased, bondTakesUnderflow, bondTakesEpochDrift, h, Bond.settleSweep, State.modBond]

theorem takeFirst_lanesStay (b : BondId) (s : State) : LanesStay s (takeFirst b s) := by
  by_cases h : (s.bonds.get b).state = .disabled
  · unfold takeFirst
    split
    · rw [bondTakes_disabled _ (by simpa using h)]
      exact withInFlight_lanesStay s b _
    · exact LanesStay.refl s
  · obtain ⟨xs, k⟩ := takeFirst_moves b s
    exact k.lanesStay_of_inFlight h

theorem takeNext_lanesStay (b : BondId) (x : Sender) (s : State) : LanesStay s (takeNext b x s) := by
  by_cases h : (s.bonds.get b).state = .disabled
  · unfold takeNext
    split
    · rw [bondTakes_disabled _ (by simpa using h)]
      have := withInFlight_lanesStay s b ((s.bonds.get b).inFlight.eraseP fun y => y.sender == x)
      simpa [State.withInFlight, State.modBond] using this
    · exact LanesStay.refl s
  · obtain ⟨xs, k⟩ := takeNext_moves b x s
    exact k.lanesStay_of_inFlight h

theorem foldl_lanesStay {α : Type} {f : State → State} (h : ∀ s, LanesStay s (f s)) (l : List α) (s : State) :
    LanesStay s (l.foldl (fun s _ => f s) s) := by
  induction l generalizing s with
  | nil => exact LanesStay.refl s
  | cons _ rest ih => exact (h s).trans (ih (f s))

/-- What a bond's taking of what is on its way to it leaves alone. -/
theorem takeSent_lanesStay (b : BondId) (s : State) : LanesStay s (takeSent b s) :=
  foldl_lanesStay (takeFirst_lanesStay b) _ s

theorem takeFrom_lanesStay (b : BondId) (x : Sender) (s : State) : LanesStay s (takeFrom b x s) :=
  foldl_lanesStay (takeNext_lanesStay b x) _ s

/-- What the arrival of one sender's messages at every bond leaves alone. -/
theorem arrivedFrom_lanesStay (x : Sender) (s : State) : LanesStay s (s.arrivedFrom x) := by
  simp only [State.arrivedFrom, allBonds, List.foldl]
  exact (((takeFrom_lanesStay 0 x s).trans (takeFrom_lanesStay 1 x _)).trans (takeFrom_lanesStay 2 x _)).trans
    (takeFrom_lanesStay 3 x _)

theorem takeInFlight_lanesStay (b : BondId) (s : State) : LanesStay s (takeInFlight b s) :=
  (takeSent_lanesStay b s).trans (takeSent_lanesStay b _)

/-- What the bonds' taking of what is on its way leaves alone. -/
theorem landed_lanesStay (s : State) : LanesStay s s.landed := by
  simp only [State.landed, allBonds, List.foldl]
  exact (((takeInFlight_lanesStay 0 s).trans (takeInFlight_lanesStay 1 _)).trans (takeInFlight_lanesStay 2 _)).trans
    (takeInFlight_lanesStay 3 _)

/-- What the arrival of notices and reports leaves alone, all of them or those named. -/
theorem arrived_lanesStay (s : State) (arrivals : Option (List (BondId × Sender))) :
    LanesStay s (s.arrived arrivals) := by
  unfold State.arrived
  split
  · exact landed_lanesStay s
  · rename_i picks
    induction picks generalizing s with
    | nil => exact LanesStay.refl s
    | cons p rest ih => exact (takeNext_lanesStay p.1 p.2 s).trans (ih _)

/-- A read side that withdraws a lane moves one bond, and that bond's counts stay. -/
theorem withdraw_lanesStay (n : Lane) (s : State) : LanesStay s (s.withdraw n) := by
  unfold State.withdraw
  split
  · rename_i b hb
    exact (modBond_moves (Bond.withdraw_keeps _ n)).lanesStay (owner_active hb)
  · exact LanesStay.refl s

/-- An update of the buffers alone. -/
theorem bufs_lanesStay {s : State} (v : Eight Buffer)
    (h : (∀ n, (s.bufs.get n).DepthOk) → ∀ n, (v.get n).DepthOk) : LanesStay s { s with bufs := v } :=
  { LanesStay.refl s with time := ⟨rfl, rfl, rfl, rfl, rfl⟩, depth := h }

theorem modBuf_lanesStay {s : State} (n : Lane) {f : Buffer → Buffer}
    (h : (s.bufs.get n).DepthOk → (f (s.bufs.get n)).DepthOk) : LanesStay s (s.modBuf n f) :=
  bufs_lanesStay _ fun k m => by
    simp only [Eight.get_set]
    split
    · exact h (k n)
    · exact k m

/-! ## The write side -/

theorem closeAndWithdraw_lanesStay (n : Lane) (s : State) : LanesStay s (closeAndWithdraw n s) :=
  (modBuf_lanesStay n Buffer.depthOk_close).trans (withdraw_lanesStay n _)

theorem Buffer.depthOk_push {bf : Buffer} (e : BufEntry) (now : Word32) (h : bf.DepthOk) (open' : bf.side = .opened)
    (room : bf.entries.length < Config.bufferDepth) : (bf.push e now).DepthOk := by
  refine ⟨?_, fun hs => absurd ?_ hs⟩
  · unfold Buffer.push; split <;> simpa using room
  · unfold Buffer.push; split <;> exact open'

theorem writeOpen_lanesStay (n : Lane) (cls : SymbolClass) (sweep : Nat) (late : Bool) (s : State)
    (open' : (s.bufs.get n).side = .opened) : LanesStay s (writeOpen n cls sweep late s) := by
  unfold writeOpen
  split
  · exact (closeAndWithdraw_lanesStay n s).trans (tellOwner_lanesStay n _ late _)
  · split
    · rename_i room
      exact modBuf_lanesStay n fun h => Buffer.depthOk_push _ _ h open' room
    · exact (closeAndWithdraw_lanesStay n s).trans (tellOwner_lanesStay n _ late _)

theorem writeAct_lanesStay (n : Lane) (cls : SymbolClass) (locked : Bool) (memory : Option Word32) (late : Bool)
    (s : State) : LanesStay s (writeAct n cls locked memory late s) := by
  unfold writeAct
  split
  · split
    · exact toOwner_lanesStay fun b => reportCandidate_moves b n _ _ s
    · exact LanesStay.refl s
  · split
    · split
      · exact (modBuf_lanesStay n fun _ => Buffer.depthOk_openWith _ _ _).trans
          (toOwner_lanesStay fun b => takeStartMark_moves b n _ late _)
      · exact LanesStay.refl s
    · exact LanesStay.refl s
  · rename_i open'
    split
    · split
      · exact writeOpen_lanesStay n cls _ late s open'
      · exact LanesStay.refl s
    · exact closeAndWithdraw_lanesStay n s

/-- The buffer write side takes a symbol. -/
theorem writeTake_lanesStay (n : Lane) (cls : SymbolClass) (locked late : Bool) (s : State) :
    LanesStay s (writeTake n cls locked late s) :=
  (modBuf_lanesStay n fun h => h).trans (writeAct_lanesStay n cls locked _ late _)

/-! ## The read side -/

theorem popReadLanes_lanesStay (b : BondId) (l : Nat) (s : State) : LanesStay s (s.popReadLanes b l) :=
  bufs_lanesStay _ fun h n => by
    simp only [Eight.get_mapIdx]
    split
    · refine ⟨?_, (h n).2⟩
      have := (h n).1
      simp only [List.length_tail]
      omega
    · exact h n

/-! ## The snapshot unit -/

/-- What the snapshot unit does with an event: itself and the global flags alone. -/
structure SnapOnly (s t : State) : Prop where
  rest : t = { s with snap := t.snap, irq := { s.irq with globalPending := t.irq.globalPending } }
  keepsFlags : ∀ f, s.globalFlag f = true → t.globalFlag f = true

theorem SnapOnly.refl (s : State) : SnapOnly s s := ⟨rfl, fun _ h => h⟩

theorem SnapOnly.trans {s t u : State} (h : SnapOnly s t) (k : SnapOnly t u) : SnapOnly s u where
  rest := by rw [k.rest, h.rest]
  keepsFlags := fun f hf => k.keepsFlags f (h.keepsFlags f hf)

theorem globalFlag_raiseGlobal (s : State) (f g : GlobalFlag) :
    (s.raiseGlobal f).globalFlag g = (s.globalFlag g || decide (g = f)) := by
  cases f <;> cases g <;> simp [State.raiseGlobal, State.globalFlag, setFlag, GlobalFlag.pos]

theorem modSnap_snapOnly (s : State) (f : Snapshot → Snapshot) : SnapOnly s (s.modSnap f) := ⟨rfl, fun _ h => h⟩

theorem raiseGlobal_snapOnly (s : State) (f : GlobalFlag) : SnapOnly s (s.raiseGlobal f) :=
  ⟨rfl, fun g h => by simp [globalFlag_raiseGlobal, h]⟩

theorem abortSnapshot_snapOnly (cause : AbortCause) (s : State) : SnapOnly s (abortSnapshot cause s) :=
  (modSnap_snapOnly s _).trans (raiseGlobal_snapOnly _ _)

theorem snapLaneDown_snapOnly (n : Lane) (s : State) : SnapOnly s (snapLaneDown n s) := by
  unfold snapLaneDown
  split
  · exact abortSnapshot_snapOnly _ s
  · exact SnapOnly.refl s

theorem recordSymbol_snapOnly (cls : SymbolClass) (s : State) : SnapOnly s (recordSymbol cls s) := by
  unfold recordSymbol
  dsimp only
  split
  · exact (modSnap_snapOnly s _).trans (raiseGlobal_snapOnly _ _)
  · exact modSnap_snapOnly s _

/-- The snapshot unit takes a symbol. -/
theorem snapTake_snapOnly (n : Lane) (cls : SymbolClass) (s : State) : SnapOnly s (snapTake n cls s) := by
  unfold snapTake
  split
  · split
    · split
      · exact (modSnap_snapOnly s _).trans (recordSymbol_snapOnly cls _)
      · exact SnapOnly.refl s
    · exact recordSymbol_snapOnly cls s
    · exact SnapOnly.refl s
  · exact SnapOnly.refl s

/-! ## The roll-call unit -/

/-- What the roll-call unit does with a symbol of a lane: that lane's assembler and entry and its flags, and what the
owning bond does. -/
structure RollMoves (n : Lane) (s t : State) : Prop where
  lanes : t.lanes = s.lanes
  snap : t.snap = s.snap
  port : t.port = s.port
  time : State.SameTime s t
  depth : (∀ m, (s.bufs.get m).DepthOk) → ∀ m, (t.bufs.get m).DepthOk
  line : ∀ c, (s.bonds.get c).LineOk → (t.bonds.get c).LineOk
  counts : (∀ c, (s.bonds.get c).CountsOk) → ∀ c, (t.bonds.get c).CountsOk
  keepsLaneFlags : ∀ m f, s.laneFlag m f = true → t.laneFlag m f = true
  listening : ∀ m, (t.rolls.get m).listening = (s.rolls.get m).listening

theorem laneFlag_raiseLane (s : State) (n m : Lane) (f g : LaneFlag) :
    (s.raiseLane n f).laneFlag m g = (s.laneFlag m g || (decide (m = n) && decide (g = f))) := by
  by_cases h : m = n
  · subst h
    cases f <;> cases g <;> simp [State.raiseLane, State.laneFlag, setFlag, LaneFlag.pos]
  · simp [State.raiseLane, State.laneFlag, h]

theorem LanesStay.laneFlag {s t : State} (h : LanesStay s t) (n : Lane) (f : LaneFlag) :
    t.laneFlag n f = s.laneFlag n f := by
  unfold State.laneFlag; rw [h.lanePending]

theorem LanesStay.listening {s t : State} (h : LanesStay s t) (n : Lane) :
    (t.rolls.get n).listening = (s.rolls.get n).listening := by
  rcases h.rolls n with h | h <;> rw [h] <;> rfl

theorem LanesStay.rollMoves {s t : State} (h : LanesStay s t) (n : Lane) : RollMoves n s t where
  lanes := h.lanes
  snap := h.snap
  port := h.port
  time := h.time
  depth := h.depth
  line := h.line
  counts := h.counts
  keepsLaneFlags := fun m f hf => by rw [h.laneFlag]; exact hf
  listening := h.listening

theorem RollMoves.trans {n : Lane} {s t u : State} (h : RollMoves n s t) (k : RollMoves n t u) : RollMoves n s u where
  lanes := k.lanes.trans h.lanes
  snap := k.snap.trans h.snap
  port := k.port.trans h.port
  time := ⟨k.time.timestamp.trans h.time.timestamp, k.time.refmon.trans h.time.refmon,
    k.time.slotDue.trans h.time.slotDue, k.time.lineStarted.trans h.time.lineStarted,
    k.time.pending.trans h.time.pending⟩
  depth := fun d => k.depth (h.depth d)
  line := fun c l => k.line c (h.line c l)
  counts := fun x => k.counts (h.counts x)
  keepsLaneFlags := fun m f hf => k.keepsLaneFlags m f (h.keepsLaneFlags m f hf)
  listening := fun m => (k.listening m).trans (h.listening m)

theorem raiseLane_rollMoves (n : Lane) (f : LaneFlag) (s : State) : RollMoves n s (s.raiseLane n f) where
  lanes := rfl
  snap := rfl
  port := rfl
  time := ⟨rfl, rfl, rfl, rfl, rfl⟩
  depth := fun h => h
  line := fun _ h => h
  counts := fun h => h
  keepsLaneFlags := fun m g h => by simp [laneFlag_raiseLane, h]
  listening := fun _ => rfl

theorem modRoll_rollMoves {n : Lane} {f : RollCall → RollCall} (s : State)
    (h : (f (s.rolls.get n)).listening = (s.rolls.get n).listening) : RollMoves n s (s.modRoll n f) where
  lanes := rfl
  snap := rfl
  port := rfl
  time := ⟨rfl, rfl, rfl, rfl, rfl⟩
  depth := fun h => h
  line := fun _ h => h
  counts := fun h => h
  keepsLaneFlags := fun _ _ h => h
  listening := fun m => by
    simp only [State.modRoll_get]
    split
    · rename_i e; rw [e]; exact h
    · rfl

theorem entryNotice_lanesStay (n : Lane) (was : EntryStatus) (late : Bool) (s : State) :
    LanesStay s (s.entryNotice n was late) := by
  unfold State.entryNotice
  split
  · exact LanesStay.refl s
  · exact tellOwner_lanesStay n _ late s

/-- Where the status has not changed, no entry-status notice is sent (R53). -/
theorem entryNotice_same {s : State} {n : Lane} {was : EntryStatus} (late : Bool)
    (h : (s.rolls.get n).entry.status = was) : s.entryNotice n was late = s := by
  simp [State.entryNotice, h]

theorem raiseLaneFlag_rollMoves (n : Lane) (f : Option LaneFlag) (s : State) :
    RollMoves n s (s.raiseLaneFlag n f) := by
  cases f
  · exact (LanesStay.refl s).rollMoves n
  · exact raiseLane_rollMoves n _ s

theorem takeOutcome_rollMoves (n : Lane) (o : RecordOutcome) (late : Bool) (s : State) :
    RollMoves n s (takeOutcome n o late s) :=
  ((modRoll_rollMoves s rfl).trans (raiseLaneFlag_rollMoves n _ _)).trans
    ((entryNotice_lanesStay n _ late _).rollMoves n)

/-- The roll-call unit takes a symbol. -/
theorem rollTake_rollMoves (n : Lane) (cls : SymbolClass) (late : Bool) (s : State) :
    RollMoves n s (rollTake n cls late s) := by
  unfold rollTake
  dsimp only
  split
  · exact (modRoll_rollMoves s rfl).trans (takeOutcome_rollMoves n _ late _)
  · exact modRoll_rollMoves s rfl

end Sys2Proof.Machine
end

