-- ==== Sys2Proof/Laws/Sequencing.lean ====
section
/-! SUPPORT. What leaving a state, entering HOLDING or HALTED and taking a fault do, each said once: the actions a bond
takes on itself, and then the whole state. -/

namespace Sys2Proof.Machine

/-! ## Leaving a state -/

theorem Bond.endMend_frame (bd : Bond) : bd.endMend = { bd with mend := bd.endMend.mend, seat := bd.endMend.seat } := by
  unfold Bond.endMend; split <;> rfl

theorem Bond.endMend_of_mending {bd : Bond} (h : bd.state = .mending) :
    bd.endMend.mend = bd.mend.map (fun m => { m with outcome := .failed }) ∧ bd.endMend.seat = none := by
  simp [Bond.endMend, h]

theorem Bond.endMend_of_ne {bd : Bond} (h : bd.state ≠ .mending) : bd.endMend = bd := by
  unfold Bond.endMend; split <;> simp_all

theorem Bond.leaveRun_frame (bd : Bond) : bd.leaveRun =
    { bd with rd := bd.leaveRun.rd, ra := { bd.ra with standing := .spoiled, runShape := bd.leaveRun.ra.runShape } } := by
  unfold Bond.leaveRun
  simp only
  split
  · rfl
  all_goals (split <;> rfl)

theorem Bond.leaveRun_in_sweep {bd : Bond} (h : bd.rd.state = .reading) (hs : bd.rd.inSweep bd.runSweep = true) :
    bd.leaveRun.rd.state = .completing := by
  simp only [Bond.runSweep] at hs
  simp [Bond.leaveRun, h, Bond.runSweep, hs]

theorem Bond.leaveRun_between_sweeps {bd : Bond} (h : bd.rd.state = .reading)
    (hs : bd.rd.inSweep bd.runSweep = false) : bd.leaveRun.rd.state = .idle ∧ bd.leaveRun.rd.phase = 0 := by
  simp only [Bond.runSweep] at hs
  simp [Bond.leaveRun, h, Bond.runSweep, hs, Bond.readIdle]

/-- What leaving a state keeps of a bond, whichever state it goes to. -/
structure Bond.Left (bd bd' : Bond) : Prop where
  cfg : bd'.cfg = bd.cfg
  retrain : bd'.retrain = bd.retrain
  result : bd'.result = bd.result
  fault : bd'.fault = bd.fault ∧ bd'.faultCount = bd.faultCount
  counters : bd'.mends = bd.mends ∧ bd'.epochDrifts = bd.epochDrifts ∧ bd'.ra.sweeps = bd.ra.sweeps
    ∧ bd'.ra.fillSweeps = bd.ra.fillSweeps ∧ bd'.ra.taintedRows = bd.ra.taintedRows
  line : bd'.lastSent = bd.lastSent ∧ bd'.callSeq = bd.callSeq ∧ bd'.lineKind = bd.lineKind
    ∧ bd'.lineIndex = bd.lineIndex ∧ bd'.rel.go = bd.rel.go
  held : bd'.ra.held = bd.ra.held
  standing : bd'.ra.standing = .spoiled
  failed : bd.state = .mending → bd'.mend = bd.mend.map (fun m => { m with outcome := .failed }) ∧ bd'.seat = none
  mend : bd.state ≠ .mending → bd'.mend = bd.mend ∧ bd'.seat = bd.seat
  timers : bd'.callTimer = .stopped ∧ bd'.alignTimer = .stopped ∧ bd'.mendTimer = .stopped

/-- The bond after the actions that every departure has in common (R139, R118, R76). -/
theorem Bond.left_common (bd : Bond) : bd.Left bd.endMend.leaveRun.stopTimers := by
  have hf := fun h => Bond.endMend_of_mending (bd := bd) h
  have hn := fun h => Bond.endMend_of_ne (bd := bd) h
  have e := bd.endMend_frame
  unfold Bond.stopTimers
  rw [bd.endMend.leaveRun_frame]
  generalize bd.endMend.leaveRun = q at *
  generalize bd.endMend = w at *
  constructor <;> (try (rw [e])) <;> simp
  · intro h; rw [← (hf h).1, ← (hf h).2]; exact ⟨rfl, rfl⟩
  · intro h; have := hn h; subst this; exact ⟨rfl, rfl⟩

/-- Leaving a state keeps what is on its way to the bond. -/
theorem Bond.depart_inFlight (bd : Bond) : bd.endMend.leaveRun.stopTimers.inFlight = bd.inFlight := by
  unfold Bond.stopTimers
  rw [bd.endMend.leaveRun_frame, bd.endMend_frame]

theorem Bond.toHolding_inFlight (bd : Bond) : bd.toHolding.inFlight = bd.inFlight := bd.depart_inFlight

theorem Bond.toHalted_inFlight (bd : Bond) : bd.toHalted.inFlight = bd.inFlight := bd.depart_inFlight

theorem Bond.toHolding_left (bd : Bond) : bd.Left bd.toHolding := by
  obtain ⟨h1, h2, h3, h4, h5, h6, h7, h8, h9, h10, h11⟩ := bd.left_common
  exact ⟨h1, h2, h3, h4, h5, h6, h7, h8, h9, h10, h11⟩

theorem Bond.toHalted_left (bd : Bond) : bd.Left bd.toHalted := by
  obtain ⟨h1, h2, h3, h4, h5, h6, h7, h8, h9, h10, h11⟩ := bd.left_common
  exact ⟨h1, h2, h3, h4, h5, h6, h7, h8, h9, h10, h11⟩

theorem Bond.toDisabled_left (bd : Bond) : bd.Left bd.toDisabled := by
  obtain ⟨h1, h2, h3, h4, h5, h6, h7, h8, h9, h10, h11⟩ := bd.left_common
  exact ⟨h1, h2, h3, h4, h5, h6, h7, h8, h9, h10, h11⟩

/-! ## Entering HOLDING and HALTED -/

/-- Everything the entry to HOLDING can do, with the entry to CALLING that may follow as the same event (R78, R80). -/
theorem enterHolding_effect (b : BondId) (s : State) :
    enterHolding b s = { s with
        bonds := s.bonds.set b ((enterHolding b s).bonds.get b)
        bufs := (enterHolding b s).bufs
        rolls := (enterHolding b s).rolls }
    ∧ (∀ n, (enterHolding b s).bufs.get n =
        if (s.bonds.get b).cfg.names n then (s.bufs.get n).clear else s.bufs.get n)
    ∧ (∀ n, (enterHolding b s).rolls.get n =
        if s.membersLocked b = true ∧ (s.bonds.get b).cfg.isMember n = true then (s.rolls.get n).clearEntry
        else s.rolls.get n)
    ∧ (enterHolding b s).bonds.get b =
        if s.membersLocked b then
          (s.bonds.get b).toHolding.toCalling.send (s.clearNotices (s.bonds.get b).cfg.isMember)
        else (s.bonds.get b).toHolding := by
  have hc : (s.bonds.get b).toHolding.cfg = (s.bonds.get b).cfg := (s.bonds.get b).toHolding_left.cfg
  have hm : ((s.modBond b Bond.toHolding).clearBufs (s.bonds.get b).cfg.names).membersLocked b = s.membersLocked b := by
    simp [State.membersLocked, hc]
  unfold enterHolding
  simp only [hm]
  split
  · rename_i hl
    refine ⟨?_, ?_, ?_, ?_⟩
    · simp [enterCalling, State.modBond, State.clearBufs, State.clearEntries]
    · simp [enterCalling]
    · simp [enterCalling, hc, hl]
    · simp only [enterCalling, State.clearEntries_bonds_get, State.modBond_get, State.clearBufs_bonds, if_true, hc]
      exact congrArg _ (State.clearNotices_congr (s := s) rfl _)
  · rename_i hl
    refine ⟨?_, ?_, ?_, ?_⟩
    · simp [State.modBond, State.clearBufs]
    · simp
    · simp [hl]
    · simp

/-! ## Taking a fault -/

/-- The record that a fault of a bond would fill (R157). -/
def faultRec (b : BondId) (cause : FaultCause) (lane : Option Lane) (index : Option Index) (detail : Option Detail)
    (s : State) : FaultRec :=
  ⟨cause, (s.bonds.get b).state, lane, index, detail, s.timestamp⟩

theorem Bond.capture_frame (bd : Bond) (f : FaultRec) :
    bd.capture f = { bd with fault := (bd.capture f).fault, faultCount := (bd.capture f).faultCount } := by
  unfold Bond.capture; split <;> rfl

theorem Bond.capture_none {bd : Bond} (f : FaultRec) (h : bd.fault = none) :
    (bd.capture f).fault = some f ∧ (bd.capture f).faultCount = bd.faultCount := by
  simp [Bond.capture, h]

theorem Bond.capture_some {bd : Bond} (f : FaultRec) (h : bd.fault ≠ none) :
    (bd.capture f).fault = bd.fault ∧ (bd.capture f).faultCount = satInc bd.faultCount := by
  unfold Bond.capture; split <;> simp_all

/-- The bond after a fault below the retrain limit (R95, R96). -/
theorem takeFault_retrains {b : BondId} (cause : FaultCause) (lane : Option Lane) (index : Option Index)
    (detail : Option Detail) {s : State} (h : (s.bonds.get b).retrain < (s.bonds.get b).cfg.retrainLimit.toNat) :
    let t := takeFault b cause lane index detail s
    let bd := { (s.bonds.get b).capture (faultRec b cause lane index detail s) with
      retrain := (s.bonds.get b).retrain + 1 }
    t.bonds.get b = (if s.membersLocked b then
        bd.toHolding.toCalling.send (s.clearNotices (s.bonds.get b).cfg.isMember) else bd.toHolding)
    ∧ (∀ n, t.bufs.get n = if (s.bonds.get b).cfg.names n then (s.bufs.get n).clear else s.bufs.get n)
    ∧ (∀ n, t.rolls.get n =
        if s.membersLocked b = true ∧ (s.bonds.get b).cfg.isMember n = true then (s.rolls.get n).clearEntry
        else s.rolls.get n) := by
  have hc := (s.bonds.get b).capture_frame (faultRec b cause lane index detail s)
  simp only [takeFault, if_pos h]
  generalize hs1 : (captureFault b cause lane index detail s).modBond b (fun bd => { bd with retrain := bd.retrain + 1 }) = s1
  have e1 : s1.bonds.get b = { (s.bonds.get b).capture (faultRec b cause lane index detail s) with
      retrain := (s.bonds.get b).retrain + 1 } := by
    subst hs1; simp [captureFault, faultRec, Bond.capture_retrain]
  have ec : (s1.bonds.get b).cfg = (s.bonds.get b).cfg := by rw [e1, hc]
  have el : s1.membersLocked b = s.membersLocked b := by
    simp only [State.membersLocked, ec]; subst hs1; rfl
  have eb : s1.bufs = s.bufs := by subst hs1; rfl
  have er : s1.rolls = s.rolls := by subst hs1; rfl
  obtain ⟨_, f2, f3, f4⟩ := enterHolding_effect b s1
  rw [ec, eb] at f2
  rw [ec, er, el] at f3
  rw [State.clearNotices_congr er, ec, e1, el] at f4
  exact ⟨f4, f2, f3⟩

/-- The bond after a fault at the retrain limit (R95, R94). -/
theorem takeFault_halts {b : BondId} (cause : FaultCause) (lane : Option Lane) (index : Option Index)
    (detail : Option Detail) {s : State} (h : (s.bonds.get b).cfg.retrainLimit.toNat ≤ (s.bonds.get b).retrain) :
    let t := takeFault b cause lane index detail s
    t.bonds.get b = ((s.bonds.get b).capture (faultRec b cause lane index detail s)).toHalted
    ∧ (∀ n, t.bufs.get n = if (s.bonds.get b).cfg.names n then (s.bufs.get n).close else s.bufs.get n)
    ∧ t.rolls = s.rolls ∧ t.bondFlag b .halted = true := by
  have hc := (s.bonds.get b).capture_frame (faultRec b cause lane index detail s)
  simp only [takeFault, if_neg (Nat.not_lt.mpr h), enterHalted]
  refine ⟨?_, ?_, rfl, by simp [bondFlag_raiseBond]⟩
  · simp [captureFault, faultRec]
  · intro n
    have ec : ((s.bonds.get b).capture ⟨cause, (s.bonds.get b).state, lane, index, detail, s.timestamp⟩).cfg
        = (s.bonds.get b).cfg := by
      have := congrArg Bond.cfg hc
      simpa [faultRec] using this
    simp [captureFault, ec]

/-- A fault of a bond does what R95, R96 and R159 say of one, and nothing else. -/
theorem takeFault_taken (b : BondId) (cause : FaultCause) (lane : Option Lane) (index : Option Index)
    (detail : Option Detail) (s : State) :
    FaultTaken b cause lane index detail s (takeFault b cause lane index detail s) := by
  have hm := takeFault_moves b cause lane index detail s
  have hf := (s.bonds.get b).capture_frame (faultRec b cause lane index detail s)
  have hn := Bond.capture_none (bd := s.bonds.get b) (faultRec b cause lane index detail s)
  have hs := Bond.capture_some (bd := s.bonds.get b) (faultRec b cause lane index detail s)
  have hr := takeFault_retrains (b := b) cause lane index detail (s := s)
  have hh := takeFault_halts (b := b) cause lane index detail (s := s)
  have flag : (takeFault b cause lane index detail s).bondFlag b .fault = true := by
    unfold takeFault
    simp only
    have hc : (captureFault b cause lane index detail s).bondFlag b .fault = true := by
      simp [captureFault, bondFlag_raiseBond]
    split
    · have := enterHolding_effect b ((captureFault b cause lane index detail s).modBond b fun bd =>
        { bd with retrain := bd.retrain + 1 })
      rw [this.1]; exact hc
    · exact (enterHalted_moves b _).keepsFlags b .fault hc
  generalize (s.bonds.get b).capture (faultRec b cause lane index detail s) = cap at *
  have hcap : cap.cfg = (s.bonds.get b).cfg ∧ cap.state = (s.bonds.get b).state ∧ cap.mend = (s.bonds.get b).mend
      ∧ cap.ra = (s.bonds.get b).ra ∧ cap.mends = (s.bonds.get b).mends
      ∧ cap.epochDrifts = (s.bonds.get b).epochDrifts ∧ cap.profile = (s.bonds.get b).profile
      ∧ cap.map = (s.bonds.get b).map ∧ cap.retrain = (s.bonds.get b).retrain := by
    rw [hf]; exact ⟨rfl, rfl, rfl, rfl, rfl, rfl, rfl, rfl, rfl⟩
  obtain ⟨_, c2, c3, c4, c5, c6, c7, c8, c9⟩ := hcap
  by_cases hlt : (s.bonds.get b).retrain < (s.bonds.get b).cfg.retrainLimit.toNat
  · obtain ⟨hb, hbuf, hroll⟩ := hr hlt
    generalize hbd : { cap with retrain := (s.bonds.get b).retrain + 1 } = bd at hb
    have hl := bd.toHolding_left
    have lf : bd.toHolding.inFlight = (s.bonds.get b).inFlight := by
      rw [bd.toHolding_inFlight, ← hbd, hf]
    have hs' : bd.toHolding.state = .holding ∧ bd.toHolding.profile = none ∧ bd.toHolding.map = none := ⟨rfl, rfl, rfl⟩
    generalize bd.toHolding = q at *
    generalize takeFault b cause lane index detail s = t at *
    subst hbd
    obtain ⟨l1, l2, l3, l4, l5, l6, l7, l8, l9, l10, l11⟩ := hl
    have hq : (t.bonds.get b).fault = q.fault ∧ (t.bonds.get b).faultCount = q.faultCount
        ∧ (t.bonds.get b).mend = q.mend ∧ (t.bonds.get b).seat = q.seat ∧ (t.bonds.get b).retrain = q.retrain
        ∧ (t.bonds.get b).profile = q.profile ∧ (t.bonds.get b).map = q.map ∧ (t.bonds.get b).mends = q.mends
        ∧ (t.bonds.get b).epochDrifts = q.epochDrifts ∧ (t.bonds.get b).ra = q.ra
        ∧ (t.bonds.get b).state = (if s.membersLocked b then .calling else .holding) := by
      rw [hb]; split <;> simp [Bond.toCalling, Bond.send, hs']
    obtain ⟨q1, q2, q3, q4, q5, q6, q7, q8, q9, q10, q11⟩ := hq
    constructor
    · intro h; rw [q1, q2, l4.1, l4.2]; exact hn h
    · intro h; rw [q1, q2, l4.1, l4.2]; exact hs h
    · exact flag
    · intro h; rw [q3, q4, ← c3]; exact l9 (c2.trans h)
    · intro _; exact ⟨q5.trans l2, q11, q6.trans hs'.2.1, q7.trans hs'.2.2⟩
    · intro h; exact absurd hlt (Nat.not_lt.mpr h)
    · exact hm.cfg
    · exact hm.result
    · rw [q8, q9, q10, ← c4, ← c5, ← c6]; exact l5
    · exact ⟨hm.line.1, hm.line.2.1⟩
    · rw [hb]
      split
      · rename_i hl; simp [Bond.send, Bond.toCalling, lf, hlt, hl]
      · rename_i hl; simp [lf, hl]
    · exact hm.lanes
    · exact hm.others
    · intro n h; rw [hroll n]; simp [h]
    · intro n h; rw [hbuf n]; simp [h]
    · exact hm.snap
    · exact hm.port
    · exact hm.time
  · obtain ⟨hb, hbuf, hroll, hhalt⟩ := hh (Nat.not_lt.mp hlt)
    have hl := cap.toHalted_left
    have lf : cap.toHalted.inFlight = (s.bonds.get b).inFlight := by rw [cap.toHalted_inFlight, hf]
    have hs' : cap.toHalted.state = .halted ∧ cap.toHalted.profile = cap.endMend.leaveRun.profile
      ∧ cap.toHalted.map = cap.endMend.leaveRun.map := ⟨rfl, rfl, rfl⟩
    have hp : cap.endMend.leaveRun.profile = cap.profile ∧ cap.endMend.leaveRun.map = cap.map := by
      rw [cap.endMend.leaveRun_frame, cap.endMend_frame]; exact ⟨rfl, rfl⟩
    generalize cap.toHalted = q at *
    generalize takeFault b cause lane index detail s = t at *
    obtain ⟨l1, l2, l3, l4, l5, l6, l7, l8, l9, l10, l11⟩ := hl
    constructor
    · intro h; rw [hb, l4.1, l4.2]; exact hn h
    · intro h; rw [hb, l4.1, l4.2]; exact hs h
    · exact flag
    · intro h; rw [hb, ← c3]; exact l9 (c2.trans h)
    · intro h; exact absurd h hlt
    · intro _
      refine ⟨?_, ?_, hhalt, ?_, ?_⟩ <;> rw [hb]
      · exact l2.trans c9
      · exact hs'.1
      · exact hs'.2.1.trans (hp.1.trans c7)
      · exact hs'.2.2.trans (hp.2.trans c8)
    · exact hm.cfg
    · exact hm.result
    · rw [hb, ← c4, ← c5, ← c6]; exact l5
    · exact ⟨hm.line.1, hm.line.2.1⟩
    · rw [hb, lf]; simp [hlt]
    · exact hm.lanes
    · exact hm.others
    · intro n _; rw [hroll]
    · intro n h; rw [hbuf n]; simp [h]
    · exact hm.snap
    · exact hm.port
    · exact hm.time

end Sys2Proof.Machine
end

