-- ==== Sys2Proof/Laws/Slots.lean ====
section
/-! SUPPORT. The slots of a read side when no read lane's buffer is empty: no UNDERFLOW is reported, so that a slot moves
the buffers of the read lanes and its own bond alone. -/

namespace Sys2Proof.Machine

theorem mem_indicesBelow {l : Nat} {i : Index} : i ∈ indicesBelow l ↔ i.val < l := by
  have h : i ∈ allIndices := by fin_cases i <;> decide
  simp [indicesBelow, h]

theorem mem_allLanes (n : Lane) : n ∈ allLanes := by fin_cases n <;> decide

theorem mem_allBonds (b : BondId) : b ∈ allBonds := by fin_cases b <;> decide

/-- A lane is a read lane when it is the read lane of an index below L. -/
theorem Bond.mem_readLanes {bd : Bond} {l : Nat} {n : Lane} :
    n ∈ bd.readLanes l ↔ ∃ i : Index, i.val < l ∧ bd.readLane i = some n := by
  simp [Bond.readLanes, List.mem_filterMap, mem_indicesBelow]

/-- The read lane of an index that is not being mended, on a lane that is not withdrawn (R114). -/
theorem Bond.readLane_eq {bd : Bond} {i : Index} {n : Lane} (hm : bd.mendedIndex ≠ some i) (hl : bd.laneOf i = some n)
    (hw : bd.rd.withdrawn.getLsbD n.val = false) : bd.readLane i = some n := by
  simp only [Bond.readLane, if_neg hm, hl, Option.bind_some, hw, Bool.false_eq_true, if_false]

theorem State.underflows_nil {s : State} {b : BondId} {l : Nat}
    (h : ∀ n ∈ (s.bonds.get b).readLanes l, (s.bufs.get n).entries ≠ []) : s.underflows b l = [] := by
  simp only [State.underflows, List.filter_eq_nil_iff]
  intro n hn
  simpa using h n hn

/-- The buffers after the read lanes gave their head entries (R114). -/
theorem State.popReadLanes_get (s : State) (b : BondId) (l : Nat) (n : Lane) :
    (s.popReadLanes b l).bufs.get n =
      if n ∈ (s.bonds.get b).readLanes l then { s.bufs.get n with entries := (s.bufs.get n).entries.tail }
      else s.bufs.get n := by
  simp [State.popReadLanes]

theorem State.popReadLanes_frame (s : State) (b : BondId) (l : Nat) :
    s.popReadLanes b l = { s with bufs := (s.popReadLanes b l).bufs } := rfl

theorem Bond.slotDone_nil (bd : Bond) : bd.slotDone [] = { bd with rd := { bd.rd with slotTaken := true } } := rfl

/-- A gap slot without UNDERFLOW. -/
theorem gapSlot_full {b : BondId} {sh : Shape} {late : Bool} {s : State}
    (h : ∀ n ∈ (s.bonds.get b).readLanes sh.lanes, (s.bufs.get n).entries ≠ []) :
    gapSlot b sh late s = { s with
      bufs := (s.popReadLanes b sh.lanes).bufs
      bonds := s.bonds.set b { s.bonds.get b with
        rd := { (s.bonds.get b).rd with slotTaken := true }
        ra := { (s.bonds.get b).ra with presented := none } } } := by
  simp [gapSlot, State.underflows_nil h, reportUnderflows, State.popReadLanes, State.modBond, Bond.slotDone]

/-- The bond after a read slot of data position j without UNDERFLOW, before the last slot's counts. -/
def Bond.rowRead (bd : Bond) (sh : Shape) (j : Nat) (row : List (Word × Bool)) : Bond :=
  let q := bd.presentRow sh j row
  { q with rd := { q.rd with slotTaken := true, whole := bd.wholeAt j } }

/-- A read slot without UNDERFLOW that is not the last of its sweep. -/
theorem rowSlot_full {b : BondId} {sh : Shape} {j : Nat} {first late : Bool} {s : State} (hj : j + 1 ≠ sh.sweep)
    (h : ∀ n ∈ (s.bonds.get b).readLanes sh.lanes, (s.bufs.get n).entries ≠ []) :
    rowSlot b sh j first late s = { s with
      bufs := (s.popReadLanes b sh.lanes).bufs
      bonds := s.bonds.set b ((s.bonds.get b).rowRead sh j (s.handedRow b sh.lanes)) } := by
  simp [rowSlot, State.underflows_nil h, reportUnderflows, State.popReadLanes, State.modBond, Bond.slotDone, hj,
    Bond.rowRead]

/-- The last read slot of a sweep without UNDERFLOW: the sweep is counted, and its notice is sent to the bond (R115,
R154). -/
theorem rowSlot_last_full {b : BondId} {sh : Shape} {j : Nat} {first late : Bool} {s : State} (hj : j + 1 = sh.sweep)
    (h : ∀ n ∈ (s.bonds.get b).readLanes sh.lanes, (s.bufs.get n).entries ≠ []) :
    rowSlot b sh j first late s = ({ s with
      bufs := (s.popReadLanes b sh.lanes).bufs
      bonds := s.bonds.set b ((s.bonds.get b).rowRead sh j (s.handedRow b sh.lanes)).countSweep } : State).tell b
        (.sweepCompleted ((s.bonds.get b).wholeAt j)) late := by
  cases first <;>
    simp [rowSlot, State.underflows_nil h, reportUnderflows, State.popReadLanes, State.modBond, Bond.slotDone, hj,
      Bond.rowRead]

/-- A row handed from untainted or tainted heads, when every index below L has a read lane with a unit at its head. -/
theorem State.handedRow_eq {s : State} {b : BondId} {l : Nat} {f : Index → Word × Bool}
    (h : ∀ i : Index, i.val < l → ∃ n rest, (s.bonds.get b).readLane i = some n
      ∧ (s.bufs.get n).entries = .unit (f i).1 (f i).2 :: rest) :
    s.handedRow b l = (indicesBelow l).map f := by
  simp only [State.handedRow]
  apply List.map_congr_left
  intro i hi
  obtain ⟨n, rest, h1, h2⟩ := h i (mem_indicesBelow.mp hi)
  simp [State.handed, h1, h2]

/-- Read lanes whose heads are units are not empty. -/
theorem State.readLanes_full {s : State} {b : BondId} {l : Nat} {f : Index → Word × Bool}
    (h : ∀ i : Index, i.val < l → ∃ n rest, (s.bonds.get b).readLane i = some n
      ∧ (s.bufs.get n).entries = .unit (f i).1 (f i).2 :: rest) :
    ∀ n ∈ (s.bonds.get b).readLanes l, (s.bufs.get n).entries ≠ [] := by
  intro n hn
  obtain ⟨i, hi, hr⟩ := Bond.mem_readLanes.mp hn
  obtain ⟨m, rest, h1, h2⟩ := h i hi
  rw [h1] at hr
  cases hr
  simp [h2]

/-! ## What arrives before a release -/

/-- A moment within 1024 unit times of the earliest start mark. -/
theorem ReleaseUnit.pastDepth_eq_false {r : ReleaseUnit} {t : Word32} :
    r.pastDepth t = false ↔ ∀ e ∈ r.earliest, (t - e).toNat ≤ 1024 := by
  unfold ReleaseUnit.pastDepth
  cases r.earliest with
  | none => simp
  | some e =>
    simp only [Option.any_some, Option.mem_def, Option.some.injEq, forall_eq']
    exact decide_eq_false_iff_not.trans Nat.not_lt

/-- Nothing arrives before a release that has not been reached, that comes within 1024 unit times of the earliest start
mark, or that finds nothing on its way. -/
theorem takeBeforeRelease_self {s : State} {b : BondId}
    (h : s.releaseReached b = false ∨ (s.bonds.get b).rel.pastDepth s.timestamp = false ∨ (s.bonds.get b).inFlight = []) :
    takeBeforeRelease b s = s := by
  unfold takeBeforeRelease
  rcases h with h | h | h
  · simp [h]
  · simp [h]
  · rw [takeInFlight_nil h, ite_self]

/-- What arrives before a release moves its bond alone. -/
theorem takeBeforeRelease_moves (b : BondId) (s : State) :
    ∃ xs, BondMoves b (s.withInFlight b xs) (takeBeforeRelease b s) := by
  unfold takeBeforeRelease
  split
  · exact takeInFlight_moves b s
  · exact (BondMoves.refl b s).inFlight_self

/-- As a bond comes to its release more than 1024 unit times after the earliest start mark, nothing is on its way any
longer. -/
theorem takeBeforeRelease_done {s : State} {b : BondId} (hd : s.releaseReached b = true)
    (hp : (s.bonds.get b).rel.pastDepth s.timestamp = true) : ((takeBeforeRelease b s).bonds.get b).inFlight = [] := by
  simp only [takeBeforeRelease, hd, hp, Bool.and_self, if_true]
  exact takeInFlight_done b s

/-- A release that is due has been reached, no more than 1024 unit times after the earliest start mark. -/
theorem State.releaseDue_iff {s : State} {b : BondId} :
    s.releaseDue b = true ↔ s.releaseReached b = true ∧ (s.bonds.get b).rel.pastDepth s.timestamp = false := by
  simp [State.releaseDue]

/-- A release that is not due before or after what arrives with it is no release. -/
theorem takeRelease_notDue {s : State} {b : BondId} (h : (takeBeforeRelease b s).releaseDue b = false) (late : Bool) :
    takeRelease b late s = takeBeforeRelease b s := by
  simp only [takeRelease, h, Bool.false_eq_true, if_false]
  split <;> rfl

/-- A release that has not been reached has no effect. -/
theorem takeRelease_notReached {s : State} {b : BondId} (h : s.releaseReached b = false) (late : Bool) :
    takeRelease b late s = s := by
  have hs := takeBeforeRelease_self (.inl h)
  rw [takeRelease_notDue (by simp [hs, State.releaseDue, h]), hs]

/-- A release past the depth of a buffer, with nothing on its way to the bond, has no effect. -/
theorem takeRelease_pastDepth {s : State} {b : BondId} (hp : (s.bonds.get b).rel.pastDepth s.timestamp = true)
    (h : (s.bonds.get b).inFlight = []) (late : Bool) : takeRelease b late s = s := by
  have hs := takeBeforeRelease_self (.inr (.inr h))
  rw [takeRelease_notDue (by simp [hs, State.releaseDue, hp]), hs]

/-! ## The units of a row -/

theorem padUnits_length (units : List Word) : (padUnits units).length = 8 := by simp [padUnits]

/-- The port's unit positions: those of the row, and 0 from there up (R142). -/
theorem padUnits_get (units : List Word) (i : Index) : (padUnits units)[i.val]? = some (units.getD i.val 0) := by
  have hi := i.isLt
  by_cases h : i.val < units.length
  · simp [padUnits, hi, h]
  · rw [padUnits, List.getElem?_take, if_pos hi, List.getElem?_append_right (by omega)]
    simp only [List.getD_eq_getElem?_getD, List.getElem?_eq_none (Nat.not_lt.mp h), Option.getD_none]
    rw [List.getElem?_replicate, if_pos (by omega)]

theorem Shape.lanes_le (sh : Shape) : sh.lanes ≤ 8 := by
  have := sh.laneCode.isLt
  simp only [Shape.lanes]; omega

theorem getD_map_indicesBelow {l : Nat} (hl : l ≤ 8) (u : Index → Word) (i : Index) :
    ((indicesBelow l).map u).getD i.val 0 = if i.val < l then u i else 0 := by
  rcases (by omega : l = 0 ∨ l = 1 ∨ l = 2 ∨ l = 3 ∨ l = 4 ∨ l = 5 ∨ l = 6 ∨ l = 7 ∨ l = 8) with
    rfl | rfl | rfl | rfl | rfl | rfl | rfl | rfl | rfl <;> fin_cases i <;> rfl

/-- A row of as many units as the shape has lanes, as it stands on the port in the slot of data position j (R142,
R144). -/
theorem padUnits_shows {sh : Shape} {j : Nat} (valid tainted : Bool) {units : List Word} {u : Index → Word}
    (h : ∀ i : Index, units.getD i.val 0 = if i.val < sh.lanes then u i else 0) :
    Row.Shows ⟨padUnits units, valid, j == 0, tainted, startChannel sh j⟩ sh j valid tainted u where
  length := padUnits_length units
  units := fun i => by rw [padUnits_get, h]
  valid := rfl
  first := by cases j <;> rfl
  tainted := rfl
  startChannel := rfl

/-- The units of an invalid row, by position (R149, R150). -/
theorem Bond.fillUnits_getD {bd : Bond} {sh : Shape} (hs : bd.ra.runShape = some sh) (h : bd.HeldOk) (i : Index) :
    (bd.fillUnits sh.lanes).getD i.val 0 = if i.val < sh.lanes then bd.fillAt i else 0 := by
  have hl := fun units hu => (h.1 units hu).2 sh hs
  have hv : ∀ v : Word, (List.replicate sh.lanes v).getD i.val 0 = if i.val < sh.lanes then v else 0 := by
    intro v
    by_cases hi : i.val < sh.lanes <;> simp [List.getD_eq_getElem?_getD, hi]
  unfold Bond.fillUnits Bond.fillAt
  cases hm : bd.cfg.fillMode <;> cases hh : bd.ra.held with
  | none => exact hv _
  | some units =>
    first
    | exact hv _
    | (have := hl units (by simp [hh])
       by_cases hi : i.val < sh.lanes
       · simp [hi]
       · simp [hi, List.getD_eq_getElem?_getD, List.getElem?_eq_none (this ▸ Nat.not_lt.mp hi)])
/-- A row of which every index below L handed a unit, judged and presented while the bond counts as RUNNING (R143 to R150,
R155). -/
theorem Bond.presentRow_presented {bd : Bond} {sh : Shape} {j : Nat} {f : Index → Word × Bool}
    (hc : bd.countsRunning = true) (hs : bd.ra.runShape = some sh) (hh : bd.HeldOk) :
    RowPresented bd sh j f (bd.presentRow sh j ((indicesBelow sh.lanes).map f)).ra := by
  have hl := sh.lanes_le
  have hany : (((indicesBelow sh.lanes).map f).any Prod.snd = true ↔ ∃ i : Index, i.val < sh.lanes ∧ (f i).2 = true) := by
    simp [List.any_map, mem_indicesBelow]
  have hopen : bd.openStanding j = if j = 0 then .clean else bd.ra.standing := by simp [Bond.openStanding, hc]
  have hval : bd.cfg.validUnits ((indicesBelow sh.lanes).map f)
      = (indicesBelow sh.lanes).map fun i => if (f i).2 then bd.cfg.fillValue else (f i).1 := by
    simp [BondConfig.validUnits]
  have hfill := fun i => bd.fillUnits_getD hs hh i
  have hrow := fun u i => getD_map_indicesBelow hl u i
  generalize ht : ((indicesBelow sh.lanes).map f).any Prod.snd = tainted at *
  constructor
  · intro h1 h2
    have ho : bd.openStanding j = .clean := by
      rw [hopen]; rcases h1 with h | h <;> simp [h]
    have hj : bd.judgedStanding j tainted = .clean := by
      simp only [Bond.judgedStanding, ho]
      rcases h2 with h | h
      · simp [h]
      · have : tainted = false := by
          cases tainted with
          | false => rfl
          | true => obtain ⟨i, hi, hf⟩ := hany.mp rfl; rw [h i hi] at hf; cases hf
        simp [this]
    refine ⟨?_, ?_, ?_, _, tainted, rfl, ?_, hany, ?_⟩
    · simp [Bond.presentRow, ht, hj]
    · simp [Bond.presentRow, ht, hj]
    · simp [Bond.presentRow, ht, hj, hval]
    · simp only [ht, hj, hval, beq_self_eq_true, if_true]
      exact padUnits_shows true tainted (hrow _)
    · simp [Bond.presentRow, ht, hj]
  · intro h1 h2 h3
    have hT : tainted = true := hany.mpr h3
    have ho : bd.openStanding j = .clean := by
      rw [hopen]; rcases h1 with h | h <;> simp [h]
    have hj : bd.judgedStanding j tainted = .filling := by
      simp [Bond.judgedStanding, ho, hT, h2]
    refine ⟨?_, ?_, ?_, ?_, _, rfl, ?_⟩
    · simp [Bond.presentRow, ht, hj]
    · have : (Standing.filling == Standing.clean) = false := rfl
      simp [Bond.presentRow, ht, hj, this, bne, beq_eq_decide]
    · simp [Bond.presentRow, ht, hj]
    · subst hT
      simp [Bond.presentRow, ht, hj]
    · simp only [ht, hj]
      exact padUnits_shows false false hfill
  · intro h1 h2
    have ho : bd.openStanding j = bd.ra.standing := by rw [hopen]; simp [h1]
    have hj : bd.judgedStanding j tainted = bd.ra.standing := by
      unfold Bond.judgedStanding; rw [ho]; cases hst : bd.ra.standing <;> simp_all
    have hv : (bd.ra.standing == Standing.clean) = false := by simp [h2]
    refine ⟨?_, ?_, ?_, ?_, ?_, _, rfl, ?_⟩
    · simp [Bond.presentRow, ht, hj]
    · simp [Bond.presentRow, ht, hj, hv, h1]
    · simp [Bond.presentRow, ht, hj, h2]
    · intro h3 h4
      have hT : tainted = true := hany.mpr h3
      subst hT
      simp [Bond.presentRow, ht, hj, h4]
    · rintro (h | h)
      · have : tainted = false := by
          cases tainted with
          | false => rfl
          | true => obtain ⟨i, hi, hf⟩ := hany.mp rfl; rw [h i hi] at hf; cases hf
        simp [Bond.presentRow, ht, this]
      · simp [Bond.presentRow, ht, hj, h]
    · simp only [ht, hj, hv]
      exact padUnits_shows false false hfill
  · rfl
end Sys2Proof.Machine
end

