-- ==== Sys2Proof/Laws/Words.lean ====
section
/-! SUPPORT. How the bits of a packed word, of a field and of a call line frame read. -/

namespace Sys2Proof.Machine

/-- A bit of a field set down in a word. -/
@[simp] theorem getLsbD_ofNat_field (v : Word) (lo len i : Nat) :
    (BitVec.ofNat 16 (wordField v lo len).toNat).getLsbD i
      = (decide (i < 16) && (decide (i < len) && v.getLsbD (lo + i))) := by
  simp only [wordField, BitVec.getLsbD_ofNat, BitVec.testBit_toNat, BitVec.getLsbD_extractLsb']

/-- A bit of a flag set down in a word. -/
@[simp] theorem getLsbD_ofNat_bitNat (b : Bool) (i : Nat) :
    (BitVec.ofNat 16 (bitNat b)).getLsbD i = (decide (i = 0) && b) := by
  cases b
  · simp [bitNat]
  · by_cases h : i = 0 <;> simp [bitNat, h]

/-- A two-valued field stored from a bit reads back as that bit. -/
theorem choice_beq {α : Type} [DecidableEq α] (c : Bool) {x y : α} (h : x ≠ y) :
    ((if c = true then x else y) == x) = c := by
  cases c <;> simp [h.symm]

/-- The parity cell makes the number of high cells odd (R192). -/
theorem oddParity_odd (cells : List Bool) : (cells ++ [oddParity cells]).count true % 2 = 1 := by
  have h : (cells.filter id).length = cells.count true := by
    rw [List.count_eq_length_filter]
    congr 1
    exact List.filter_congr fun x _ => by cases x <;> rfl
  simp only [List.count_append, oddParity, h]
  rcases Nat.mod_two_eq_zero_or_one (cells.count true) with h | h <;> simp [h] <;> omega

end Sys2Proof.Machine
end

