-- ==== Sys2Proof/WellFormed.lean ====
section
/-! DEFINITION. Which commands are well formed: the operands are those the command's row names.
A command that is not well formed still has a meaning: the written value, the address or the bit count decides what
happens, whichever row it came under (log 11). -/

namespace Sys2Proof

/-- The check of one command. -/
def Instr.wellFormed : Instr → Bool
  -- R189: RESET_PART is bit 0 of the written value
  | .resetPart v => Machine.wordBit v 0
  -- no lane is named twice in an order of notices
  | .referenceGap order _ _ => order.eraseDups == order
  -- R19, R29: the enable is bit 0 of the written value
  | .laneEnable _ v => Machine.wordBit v 0
  | .laneDisable _ v _ _ => !Machine.wordBit v 0
  -- R173: a trigger code of 3 is no request
  | .snapshotRequest _ trigger _ => trigger != 3
  -- R182: a register with no row of its own
  | .registerWrite a _ => (Machine.regAt a).hasNoRowOfItsOwn
  -- R186: word 0 of a held group
  | .holdingCopyFill a => ((Machine.heldAt (Machine.regAt a)).map Prod.snd) == some 0
  -- R183: an unmapped address
  | .readUnmapped a => !(Machine.regAt a).isMapped
  -- R184: 1 to 15 bits of a word
  | .partialWord bits => bits != 0
  | .pinReset _ | .refclkEdge | .acqTimeout _ | .frequencyLock _ | .frequencyLoss _ _ _ | .laneSymbol _ _ _
  | .laneClearCounters _ | .callWordSlot | .bondConfigWrite _ _ _ | .start _ | .stop _ | .retrain _ | .clearFault _
  | .clearCounters _ | .holdTimeout _ | .callTimeout _ | .alignTimeout _ | .epochEvent _ | .release _ _
  | .readSideSlot _ _ _ | .seatComplete _ _ | .mendTimeout _ | .snapshotCancel | .snapshotTimeout | .pendingClear _ _
  | .inspectionSelect _ | .transactionHeader _ | .timestampCounterAdvance _ | .transactionEnd => true

end Sys2Proof
end

