-- ==== Sys2Proof/Tests/Slice0.lean ====
section
/-! SUPPORT. Tests: an ill-formed command for each check of WellFormed, values that the spec prints, and for each
obligation with hypotheses concrete states that meet them, clause by clause. -/

namespace Sys2Proof.Tests
open Sys2Proof Sys2Proof.Machine

/-! ## Well-formed commands, and an ill-formed one for each check -/

theorem test_wellFormed_resetPart : (Instr.resetPart 1).wellFormed = true ∧ (Instr.resetPart 6).wellFormed = false := by
  decide

theorem test_wellFormed_referenceGap :
    (Instr.referenceGap [3, 1] [5]).wellFormed = true ∧ (Instr.referenceGap [3, 1, 3]).wellFormed = false := by decide

theorem test_wellFormed_laneEnable :
    (Instr.laneEnable 2 0x6401).wellFormed = true ∧ (Instr.laneEnable 2 0x6400).wellFormed = false := by decide

theorem test_wellFormed_laneDisable :
    (Instr.laneDisable 2 0x6400).wellFormed = true ∧ (Instr.laneDisable 2 0x6401).wellFormed = false := by decide

theorem test_wellFormed_snapshotRequest :
    (Instr.snapshotRequest 7 2 11).wellFormed = true ∧ (Instr.snapshotRequest 7 3 11).wellFormed = false := by decide

theorem test_wellFormed_registerWrite :
    (Instr.registerWrite 0x008 1).wellFormed = true ∧ (Instr.registerWrite 0x007 1).wellFormed = false := by decide

theorem test_wellFormed_holdingCopyFill :
    (Instr.holdingCopyFill 0x003).wellFormed = true ∧ (Instr.holdingCopyFill 0x004).wellFormed = false := by decide

theorem test_wellFormed_readUnmapped :
    (Instr.readUnmapped 0x1F0).wellFormed = true ∧ (Instr.readUnmapped 0x1E8).wellFormed = false := by decide

theorem test_wellFormed_partialWord :
    (Instr.partialWord 15).wellFormed = true ∧ (Instr.partialWord 0).wellFormed = false := by decide

/-! ## Values that the spec prints -/

/-- The identity word: part code 0x84, revision 1. -/
theorem test_identity_word : readWord State.reset (regAt 0x000) = 0x8401 := by decide

/-- The record with a two-word label of 01_the_bonded_lane_protocol.md passes its check, and fails it with one bit
changed. -/
theorem test_record_check :
    (∃ r, judgeRecord ⟨[0x1234, 0x8A61, 0xFFF0, 0x0025, 0x6356], 0x1234 + 0x8A61 + 0xFFF0 + 0x0025 + 0x6356⟩ = .valid r
      ∧ r.label = [0xFFF0, 0x0025])
    ∧ judgeRecord ⟨[0x1234, 0x8A61, 0xFFF0, 0x0024, 0x6356], 0x1234 + 0x8A61 + 0xFFF0 + 0x0024 + 0x6356⟩
        = .checkFailure := by
  refine ⟨⟨_, rfl, ?_⟩, ?_⟩ <;> decide

/-- The record of the snapshot sequence: a sum of 0, but label_length 7 makes it malformed; its words A and B. -/
theorem test_snapshot_record :
    judgeRecord ⟨[0x1418, 0x0F13, 0, 0, 0, 0, 0, 0, 0, 0xDCD5], 0x1418 + 0x0F13 + 0xDCD5⟩ = .malformed
    ∧ judgeRecord ⟨[0x1418, 0x0813, 0xE3D5], 0x1418 + 0x0813 + 0xE3D5⟩
        = .valid ⟨⟨40, 3, ⟨1, 1, 3⟩, false⟩, 0, []⟩ := by decide

/-- The configuration words of BD1 in the bring-up sequence. -/
theorem test_bringUp_words :
    (BondConfig.reset.store 0 0x0D2C).memberList = [2, 3, 5] ∧ (BondConfig.reset.store 0 0x0D2C).spare = some 6
    ∧ identityWord 12 5 0 = 0x0628 ∧ shapeWord ⟨2, 1, 3⟩ 0 false = 0x0823 ∧ (⟨2, 1, 3⟩ : Shape).lanes = 3
    ∧ (⟨2, 1, 3⟩ : Shape).sweep = 64 ∧ (⟨2, 1, 3⟩ : Shape).channels = 4 ∧ (⟨2, 1, 3⟩ : Shape).usable = true := by
  decide

/-- The seat arithmetic of the MOVE mend: e = 7, d = +7, O_ref = 52, join slot 40 910. -/
theorem test_seat_arithmetic :
    seatOffsetOf (behindReference 40865 40858 64) 64 = 7 ∧ joinSlot 40865 7 52 = 40910
    ∧ behindReference 100 101 64 = 64 ∧ seatOffsetOf 33 64 = -32 := by decide

/-- Start channels of rows 9 to 11 and 63 of a sweep with L = 3, S = 64, C = 4. -/
theorem test_start_channels :
    startChannel ⟨2, 1, 3⟩ 9 = 3 ∧ startChannel ⟨2, 1, 3⟩ 10 = 2 ∧ startChannel ⟨2, 1, 3⟩ 11 = 1
    ∧ startChannel ⟨2, 1, 3⟩ 63 = 1 := by decide

/-- Phases wrap: the distance of phases 1 and 32 with S = 32 is 2. -/
theorem test_phase_distance : phaseDistance 1 32 32 = 2 ∧ phaseDistance 20 18 32 = 2 := by decide

/-- A call word on the line, and the line before the first slot. -/
theorem test_call_word :
    (⟨.move, 5, 2⟩ : CallWord).bits = 0x8A80
    ∧ callFrame ⟨.call, 0, 0⟩ =
      [true, false, true, false, false, false, false, false, false, false, false, false, false, false, false, false,
        false, false, true, false]
    ∧ State.reset.callLine 0 = List.replicate 20 false := by decide

/-- The polarity: the complement of IDLE is INVERTED under NORMAL and IDLE under INVERTED. -/
theorem test_classify :
    classify .normal .notIdle = .inverted ∧ classify .inverted .notIdle = .idle
    ∧ classify .inverted .idle = .inverted ∧ classify .inverted (.data 7) = .invalid := by decide

/-- IRQ on its line: low while asserted active-low push-pull, released while asserted active-high open-drain. -/
theorem test_irq_line :
    ({ Irq.reset with globalPending := 1, globalEnable := 1 } : Irq).line = .low
    ∧ ({ Irq.reset with globalPending := 1, globalEnable := 1, level := .activeHigh, drive := .openDrain } : Irq).line
      = .released := by decide

/-! ## States -/

/-- The state after a command. -/
def after (c : Instr) (s : State) : State :=
  match exec c s with
  | .next t => t
  | .fault _ => s
  | .refused _ => s

/-- Every message is taken in the step that sends it, the lane's notice first. -/
def prompt : Handing := ⟨true, false, false, false⟩

def lockedLane : LaneRx := { LaneRx.reset with enable := true, mode := .locked, lockRun := 32 }

def testProfile : Profile := ⟨5, 3, ⟨1, 0, 0⟩, true⟩

/-- Members 0 and 1, spare 2, LEARN, mending on. -/
def testConfig : BondConfig := { BondConfig.reset with members := 3, spare := some 2, matchMode := .learn, mending := true }

/-- A DISABLED bond with that configuration. -/
def offBond : Bond := { Bond.reset with cfg := testConfig }

def holdingBond : Bond := { offBond with state := .holding, holdTimer := .running 0 1000 }

def callingBond : Bond := { offBond with state := .calling, callTimer := .running 0 10000 }

/-- ALIGNING, waiting for start marks with GO on the line. -/
def aligningBond : Bond :=
  { offBond with
    state := .aligning, profile := some testProfile
    map := some ⟨some 0, some 1, none, none, none, none, none, none⟩
    alignTimer := .running 0 10000, lastSent := ⟨.go, 3, 0⟩, callSeq := 1, lineKind := .go
    rel := { ReleaseUnit.reset with state := .markWait, go := true } }

/-- ALIGNING with the release instant at 1000. -/
def countdownBond : Bond :=
  { aligningBond with
    rel := { aligningBond.rel with
      state := .countdown, arrivals := ⟨some 990, some 993, none, none, none, none, none, none⟩
      earliest := some 990, skew := some 3, instant := some 1000 }
    offsets := ⟨some 0, some 3, none, none, none, none, none, none⟩ }

/-- RUNNING, with the slot of the given phase not yet read. -/
def runningBond (phase : Nat) : Bond :=
  { countdownBond with
    state := .running, alignTimer := .stopped
    rel := { countdownBond.rel with state := .released }
    rd := ⟨.reading, phase, 0, true, false⟩
    ra := { Reassembly.reset with runShape := some testProfile.shape, standing := .clean } }

/-- HOLDING, with the last sweep of its run being completed at the given phase. -/
def completingBond (phase : Nat) : Bond :=
  { holdingBond with
    rd := ⟨.completing, phase, 0, false, false⟩, ra := { Reassembly.reset with runShape := some testProfile.shape } }

/-- ALIGNING, with a release postponed behind such a sweep. -/
def waitingBond (phase : Nat) : Bond :=
  { countdownBond with
    rel := { countdownBond.rel with postponed := true, instant := some 998 }
    rd := (completingBond phase).rd, ra := (completingBond phase).ra }

/-- Released in this unit time and still ALIGNING, with messages on their way. -/
def reportedBond (sent : List Notice) : Bond :=
  { runningBond 1 with
    state := .aligning, alignTimer := .running 0 10000, inFlight := sent
    rd := ⟨.reading, 1, 0, true, true⟩ }

/-- MENDING logical 0 by a MOVE to lane 2, with its seat's join slot at 1000. -/
def seatBond (method : MendMethod) (joining : Lane) : Bond :=
  { runningBond 1 with
    state := .mending, mendTimer := .running 0 5000
    mend := some ⟨0, 0, .strikes, method, joining, some 1, .seat, .inProgress, some 2⟩
    seat := some 1000, ra := { (runningBond 1).ra with standing := .spoiled } }

/-- Lanes 0, 1 and 2 LOCKED, the reference PRESENT, timestamp 1000, the bond as BD0, and the given heads in the buffers
of lanes 0 to 2. -/
def testState (bd : Bond) (entries : List BufEntry) (side : WriteSide) : State :=
  let r : RollCall := { RollCall.reset with listening := true }
  let bf : Buffer := { Buffer.reset with entries := entries, side := side }
  { State.reset with
    lanes := ⟨lockedLane, lockedLane, lockedLane, LaneRx.reset, LaneRx.reset, LaneRx.reset, LaneRx.reset, LaneRx.reset⟩
    rolls := ⟨r, r, r, RollCall.reset, RollCall.reset, RollCall.reset, RollCall.reset, RollCall.reset⟩
    bufs := ⟨bf, bf, bf, Buffer.reset, Buffer.reset, Buffer.reset, Buffer.reset, Buffer.reset⟩
    bonds := ⟨bd, Bond.reset, Bond.reset, Bond.reset⟩
    refmon := ⟨true, 64, 0⟩, timestamp := 1000 }

/-- The same with one change to lane 0. -/
def withLane0 (l : LaneRx) (s : State) : State := { s with lanes := s.lanes.set 0 l }

/-- Lanes 0 to 2 with the given entry. -/
def withEntries (e : Entry) (s : State) : State :=
  { s with rolls := s.rolls.mapIdx fun _ r => { r with entry := e } }

/-- The part with a lane 0 alone. -/
def laneState (l : LaneRx) : State := withLane0 l { State.reset with refmon := ⟨true, 64, 0⟩ }

/-! ## States that meet the hypotheses of the obligations

Each theorem is named after its obligation, and has a clause for each clause of it. -/

/-- A timer of each kind one tick before its limit, and a gap one tick before a reference gap. -/
def dueState : State :=
  { laneState { LaneRx.reset with enable := true, mode := .acquiring, acqTimer := .running 999 1000 } with
    bonds := ⟨{ holdingBond with holdTimer := .running 999 1000 }, { callingBond with callTimer := .running 9999 10000 },
      { aligningBond with alignTimer := .running 9999 10000 }, { seatBond .move 2 with mendTimer := .running 4999 5000 }⟩
    snap := { Snapshot.reset with
      state := .armed, lane := some 0, trigger := some .next, count := some 1, timer := .running 999 1000 }
    refmon := ⟨true, 64, 3⟩ }

theorem test_hyps_IdleStepTicksTheTimebase :
    dueState.pending = [] ∧ (∀ b, (dueState.bonds.get b).inFlight = []) ∧ dueState.landed = dueState
    ∧ dueState.slotDue = true ∧ (dueState.bonds.get 0).holdTimer = .running 999 1000
    ∧ (dueState.bonds.get 1).callTimer = .running 9999 10000 ∧ (dueState.bonds.get 2).alignTimer = .running 9999 10000
    ∧ (dueState.bonds.get 3).mendTimer = .running 4999 5000 ∧ (dueState.lanes.get 0).acqTimer = .running 999 1000
    ∧ dueState.snap.timer = .running 999 1000 ∧ dueState.refmon.gap + 1 = Config.gapTicks := by decide

/-- The same a tick later: every timer stands at its limit. -/
def expiredState : State := { countTick dueState with pending := [] }

/-- A RUNNING bond with open buffers, and a symbol waiting. -/
def invState : State :=
  { testState (runningBond 1) [.unit 7 false] .opened with pending := [.laneSymbol 0 (.data 7) prompt] }

/-- Each part of what holds of every bond of that state. -/
theorem invState_bonds (b : BondId) : (invState.bonds.get b).Ok := by
  refine ⟨?_, ?_, ?_, ?_, ?_, ?_, ?_, ?_, ?_, ?_, ?_, ?_, ?_⟩ <;> revert b <;> decide

theorem test_hyps_EveryStepKeepsTheInvariant : ∃ t, invState.Inv ∧ step invState = .next t :=
  ⟨_, ⟨by decide, by decide, by decide, by decide, by decide, by decide, by decide, invState_bonds, by decide, by decide,
    by decide, by decide, by decide, by decide⟩, rfl⟩

theorem test_hyps_EveryStepKeepsSnapshotBounds : ∃ t, dueState.snap.Ok ∧ step dueState = .next t :=
  ⟨_, by decide, rfl⟩

theorem test_hyps_EveryStepKeepsBufferDepth : ∃ t, (∀ n, (invState.bufs.get n).DepthOk) ∧ step invState = .next t :=
  ⟨_, by decide, rfl⟩

theorem test_hyps_EveryStepKeepsEntryRepeats : ∃ t, invState.EntriesOk ∧ step invState = .next t :=
  ⟨_, by decide, rfl⟩

theorem test_hyps_EveryStepKeepsLineWords : ∃ t, (∀ b, (invState.bonds.get b).LineOk) ∧ step invState = .next t :=
  ⟨_, by decide, rfl⟩

theorem test_hyps_EveryStepKeepsRetrainsWithinLimit :
    ∃ t, (∀ b, (invState.bonds.get b).CountsOk) ∧ step invState = .next t := ⟨_, by decide, rfl⟩

theorem test_hyps_EveryStepKeepsLaneReceivers :
    ∃ t, (invState.LanesOk ∧ invState.NoSearchWithoutReference ∧ invState.MonitorOk) ∧ step invState = .next t :=
  ⟨_, by decide, rfl⟩

theorem test_hyps_RefclkEdgeCountsAndDeclaresPresent :
    dueState.refmon.present = true
    ∧ (let s := State.reset; s.refmon.present = false ∧ s.refmon.edges + 1 ≠ 64)
    ∧ (let s : State := { State.reset with refmon := ⟨false, 62, 0⟩ }; s.refmon.present = false ∧ s.refmon.edges + 1 ≠ 64)
    ∧ (let s : State := { State.reset with refmon := ⟨false, 63, 0⟩ }
       s.refmon.present = false ∧ s.refmon.edges + 1 = 64) := by decide

/-- A state 4 ticks after the last edge. -/
def withGap (s : State) : State := { s with refmon := { s.refmon with gap := 4 } }

theorem test_hyps_ReferenceGapDeclaresAbsent :
    dueState.refmon.gap < 4 ∧ (withGap State.reset).refmon = ⟨false, 0, 4⟩
    ∧ ((withGap invState).refmon = ⟨true, 64, 4⟩ ∧ (invState.lanes.get 7).mode = .off
      ∧ (invState.lanes.get 0).mode = .locked ∧ (invState.lanes.get 0).mode.classifies = true)
    ∧ (expiredState.refmon = ⟨true, 64, 4⟩ ∧ (expiredState.lanes.get 0).mode = .acquiring)
    ∧ (withGap (laneState { lockedLane with mode := .seeking, lockRun := 31 })).refmon.present = true
    ∧ ((laneState { lockedLane with mode := .seeking, lockRun := 31 }).lanes.get 0).mode.classifies = true := by decide

theorem test_hyps_UnitTimeAdvancesCounterAndPhases :
    State.reset.refmon.present = false
    ∧ (let s := testState (runningBond 32) [] .opened
       s.refmon.present = true ∧ (s.bonds.get 0).rd.state = .reading ∧ (s.bonds.get 0).runSweep = (s.bonds.get 0).rd.phase
         ∧ (s.bonds.get 1).rd.state = .idle)
    ∧ (let s := testState (runningBond 31) [] .opened
       s.refmon.present = true ∧ (s.bonds.get 0).rd.state = .reading
         ∧ (s.bonds.get 0).rd.phase < (s.bonds.get 0).runSweep)
    ∧ (let bd := fun phase => completingBond phase
       (∀ phase ∈ [0, 31, 32], (bd phase).rd.state = .completing) ∧ (bd 0).rd.phase = 0 ∧ 0 < (bd 31).rd.phase
         ∧ (bd 31).rd.phase < (bd 31).runSweep ∧ (bd 32).runSweep ≤ (bd 32).rd.phase
         ∧ (bd 32).rel.state ≠ .countdown ∧ (waitingBond 32).runSweep ≤ (waitingBond 32).rd.phase
         ∧ (waitingBond 32).rel.state = .countdown ∧ (waitingBond 32).rel.postponed = true
         ∧ (waitingBond 32).rd.state = .completing) := by decide

theorem test_hyps_EnableTakesAnOffLaneToAcquiring :
    invState.Takes false (laneAddr 7 0) .idle ∧ invState.SnapLaneOk ∧ (invState.lanes.get 7).mode = .off
    ∧ (0x0001 : Word).getLsbD 0 = true := ⟨rfl, by decide, by decide, by decide⟩

theorem test_hyps_EnableOfAnEnabledLaneOnlyStores :
    invState.Takes false (laneAddr 0 0) .idle ∧ (invState.lanes.get 0).mode ≠ .off ∧ (0xFF07 : Word).getLsbD 0 = true :=
  ⟨rfl, by decide, by decide⟩

theorem test_hyps_DisableTakesALaneToOff :
    invState.Takes false (laneAddr 0 0) .idle ∧ dueState.Takes false (laneAddr 0 0) .idle
    ∧ (0x6400 : Word).getLsbD 0 = false ∧ (invState.lanes.get 7).mode = .off ∧ (invState.lanes.get 0).mode = .locked
    ∧ (dueState.lanes.get 0).mode ≠ .off ∧ (dueState.lanes.get 0).mode ≠ .locked
    ∧ (∀ b, invState.inFlightFrom b (.receiver 0) = false ∧ invState.inFlightFrom b .rollCall = false)
    ∧ (invState.rolls.get 0).entry.status = .empty
    ∧ (dueState.snap.state = .armed ∧ dueState.snap.lane = some 0) ∧ invState.snap.lane ≠ some 0
    ∧ ∀ st : EntryStatus, ((withEntries ⟨st, 3, Record.zero, 9, 0, 0⟩ invState).rolls.get 0).entry.status = st :=
  ⟨rfl, rfl, by decide, by decide, by decide, by decide, by decide, by decide, by decide, by decide, by decide, fun _ => rfl⟩

theorem test_hyps_AcquisitionTimeoutCountsAndRestarts :
    ((expiredState.lanes.get 0).mode = .acquiring ∧ (expiredState.lanes.get 0).acqTimer.due = true)
    ∧ (invState.lanes.get 0).mode ≠ .acquiring ∧ (dueState.lanes.get 0).acqTimer.due = false
    ∧ (laneState { LaneRx.reset with mode := .acquiring, acqTimer := .held 999 }).lanes.c0.acqTimer.due = false := by
  decide

theorem test_hyps_FrequencyLockTakesAcquiringToSeeking :
    ((dueState.lanes.get 0).mode = .acquiring ∧ dueState.refmon.present = true)
    ∧ (invState.lanes.get 0).mode ≠ .acquiring ∧ State.reset.refmon.present = false := by decide

theorem test_hyps_FrequencyLossTakesALaneToAcquiring :
    (dueState.lanes.get 0).mode.classifies = false ∧ (invState.lanes.get 7).mode.classifies = false
    ∧ ((invState.lanes.get 0).mode.classifies = true ∧ invState.refmon.present = true
      ∧ (invState.lanes.get 0).mode = .locked)
    ∧ (let s := laneState { lockedLane with mode := .seeking, lockRun := 31 }
       (s.lanes.get 0).mode.classifies = true ∧ (s.lanes.get 0).mode = .seeking)
    ∧ (let s : State := { invState with snap := dueState.snap }
       (s.lanes.get 0).mode.classifies = true ∧ s.snap.busy = true ∧ s.snap.lane = some 0) := by decide

theorem test_hyps_SymbolOnALaneThatDoesNotClassifyIsLost :
    (invState.lanes.get 7).mode = .off ∧ (dueState.lanes.get 0).mode = .acquiring := by decide

/-- A lane in SEEKING with the given runs. -/
def seekingLane (run inv : Nat) (auto : Bool) : LaneRx :=
  { lockedLane with mode := .seeking, lockRun := run, invRun := inv, autoPolarity := auto }

theorem test_hyps_SeekingSymbolsLockOrFlipALane :
    (let l := seekingLane 30 0 true
     l.mode = .seeking ∧ (classify l.polarity (.data 7)).isValid = true ∧ l.lockRun + 1 ≠ 32)
    ∧ (let l := seekingLane 31 0 true
       l.mode = .seeking ∧ (classify l.polarity .idle).isValid = true ∧ l.lockRun + 1 = 32)
    ∧ (let l := seekingLane 31 15 true; l.mode = .seeking ∧ classify l.polarity .other = .invalid)
    ∧ (let l := seekingLane 31 0 false
       l.mode = .seeking ∧ classify l.polarity .notIdle = .inverted ∧ l.autoPolarity = false)
    ∧ (let l := seekingLane 0 14 true
       l.mode = .seeking ∧ classify l.polarity .notIdle = .inverted ∧ l.autoPolarity = true ∧ l.invRun + 1 ≠ 16)
    ∧ (let l := seekingLane 0 15 true
       l.mode = .seeking ∧ classify l.polarity .notIdle = .inverted ∧ l.autoPolarity = true ∧ l.invRun + 1 = 16) := by
  decide

/-- LOCKED, with the given strikes and relief run. -/
def strikeLane (strikes relief : Nat) : LaneRx := { lockedLane with strikes := strikes, relief := relief }

theorem test_hyps_LockedSymbolsStrikeOrRelieveALane :
    (let l := strikeLane 3 62
     l.mode = .locked ∧ (classify l.polarity .mark).isValid = true ∧ l.strikes < 4 ∧ l.relief + 1 ≠ 64)
    ∧ (let l := strikeLane 0 63
       l.mode = .locked ∧ (classify l.polarity .head).isValid = true ∧ l.strikes < 4 ∧ l.relief + 1 = 64)
    ∧ (let l := strikeLane 2 63
       l.mode = .locked ∧ (classify l.polarity .other).isValid = false ∧ l.strikes + 1 < 4)
    ∧ (let l := strikeLane 3 63
       l.mode = .locked ∧ (classify l.polarity .notIdle).isValid = false ∧ l.strikes = 3) := by decide

theorem test_hyps_LaneClearCountersZeroesFiveCounters : invState.Takes false (laneAddr 7 1) .idle := rfl

/-- The record of logical 1 of the test profile, label empty. -/
def testRecord : Record := ⟨testProfile, 1, []⟩

theorem test_hyps_ConfirmedEntryTakesIdenticalRecord :
    let e := ((withEntries ⟨.confirmed, 3, testRecord, 9, 0, 0⟩ invState).rolls.get 0).entry
    e.status = .confirmed ∧ e.repeats = 3 ∧ e.record = testRecord := by decide

/-- The words A and B of the test record, and its check word. -/
def testWords : Word × Word × Word :=
  let a := identityWord 5 3 1
  let b := shapeWord ⟨1, 0, 0⟩ 0 true
  (a, b, 0 - (a + b))

/-- A LOCKED lane 0 that no bond owns, with words A and B of its open record received. -/
def openState (wordB : Word) (e : Entry) : State :=
  let s := withEntries e (laneState lockedLane)
  { s with rolls := s.rolls.set 0 { s.rolls.get 0 with
      listening := true, openRec := some ⟨[testWords.1, wordB], testWords.1 + wordB⟩ } }

/-- The hypotheses of CompleteRecordMovesTheEntry for one open record and the word that ends it. -/
def CompletesWith (s : State) (u : Word) (rc : OpenRecord) : Prop :=
  (s.lanes.get 0).mode = .locked ∧ (s.lanes.get 0).polarity = .normal ∧ (s.lanes.get 0).strikes < 4 ∧ s.owner 0 = none
  ∧ (s.rolls.get 0).openRec = some rc ∧ (⟨rc.words ++ [u], rc.sum + u⟩ : OpenRecord).complete = true

theorem test_hyps_CompleteRecordMovesTheEntry :
    let rc : OpenRecord := ⟨[testWords.1, testWords.2.1], testWords.1 + testWords.2.1⟩
    let seen : Entry := ⟨.seen, 1, testRecord, 9, 0, 0⟩
    (CompletesWith (openState testWords.2.1 seen) 0 rc ∧ rc.sum + 0 ≠ 0)
    ∧ (CompletesWith (openState (testWords.2.1 &&& 0xFF8F) seen) (0 - (testWords.1 + (testWords.2.1 &&& 0xFF8F)))
        ⟨[testWords.1, testWords.2.1 &&& 0xFF8F], testWords.1 + (testWords.2.1 &&& 0xFF8F)⟩
      ∧ (shapeOfWord (testWords.2.1 &&& 0xFF8F)).lanes ≤ 1)
    ∧ (CompletesWith (openState testWords.2.1 seen) testWords.2.2 rc ∧ rc.sum + testWords.2.2 = 0
      ∧ testWords.2.1.extractLsb' 8 3 ≠ 7
      ∧ recordOfWords testWords.1 testWords.2.1 [] = testRecord
      ∧ testRecord.logicalIndex.toNat < testRecord.common.shape.lanes)
    ∧ CompletesWith (openState testWords.2.1 { seen with repeats := 2 }) testWords.2.2 rc
    ∧ CompletesWith (openState testWords.2.1 { seen with status := .confirmed, repeats := 3 }) testWords.2.2 rc
    ∧ CompletesWith (openState testWords.2.1 { seen with record := Record.zero }) testWords.2.2 rc
    ∧ CompletesWith (openState testWords.2.1 ⟨.confirmed, 3, Record.zero, 9, 0, 0⟩) testWords.2.2 rc
    ∧ CompletesWith (openState testWords.2.1 Entry.reset) testWords.2.2 rc := by
  unfold CompletesWith
  decide

/-- The same lane 0 as a member of a RUNNING bond, its write side CLOSED. -/
def ownedOpenState (e : Entry) : State :=
  { testState (runningBond 1) [] .closed with rolls := (openState testWords.2.1 e).rolls }

theorem test_hyps_CompleteRecordMovesTheEntry_owned :
    let s := ownedOpenState Entry.reset
    let rc : OpenRecord := ⟨[testWords.1, testWords.2.1], testWords.1 + testWords.2.1⟩
    (s.lanes.get 0).mode = .locked ∧ (s.lanes.get 0).polarity = .normal ∧ (s.lanes.get 0).strikes < 4
    ∧ s.owner 0 = some 0 ∧ (s.bufs.get 0).side = .closed ∧ (s.bufs.get 0).markMemory = none
    ∧ (s.rolls.get 0).openRec = some rc
    ∧ (⟨rc.words ++ [testWords.2.2], rc.sum + testWords.2.2⟩ : OpenRecord).complete = true := by decide

/-- A record of seven label words is complete with its check word. -/
theorem test_hyps_CompleteRecordMovesTheEntry_labelSeven :
    (⟨[0x1418, 0x0F13, 0, 0, 0, 0, 0, 0, 0] ++ [0xDCD5], 0⟩ : OpenRecord).complete = true
    ∧ (0x0F13 : Word).extractLsb' 8 3 = 7 ∧ (0x232B + 0xDCD5 : Word) = 0 := by decide

theorem test_hyps_OpenWriteSideWritesUnits :
    (invState.lanes.get 0).mode = .locked ∧ (withLane0 (strikeLane 2 0) invState).lanes.c0.strikes < 3
    ∧ (invState.rolls.get 0).openRec = none ∧ (invState.bufs.get 0).side = .opened ∧ invState.ownerSweep 0 = some 32
    ∧ (invState.bufs.get 0).sweepCount < 32 ∧ (invState.bufs.get 0).entries.length < 1024
    ∧ classify (invState.lanes.get 0).polarity (.data 7) = .data 7
    ∧ (classify (invState.lanes.get 0).polarity .other).isValid = false := by decide

/-- ALIGNING with the start mark of logical 1 at 990, a MARK of lane 0 at 999 remembered, and the skew limit met. -/
def lastMarkState : State :=
  let s := testState { aligningBond with
    cfg := { testConfig with skewLimit := 9 }
    rel := { aligningBond.rel with arrivals := ⟨none, some 990, none, none, none, none, none, none⟩, earliest := some 990 } }
    [] .watching
  { s with bufs := s.bufs.set 0 { s.bufs.get 0 with markMemory := some 999 } }

theorem test_hyps_FreeReleaseInstantAndEpochs :
    let s := lastMarkState
    (s.lanes.get 0).mode = .locked ∧ (s.lanes.get 0).strikes < 4
    ∧ classify (s.lanes.get 0).polarity (.data 7) = .data 7 ∧ s.owner 0 = some 0 ∧ (s.bonds.get 0).state = .aligning
    ∧ (s.bonds.get 0).cfg.releaseMode = .free ∧ (s.bonds.get 0).rel.state = .markWait
    ∧ (s.bonds.get 0).indexOf 0 = some 0 ∧ (s.bonds.get 0).rel.go = true ∧ (s.bufs.get 0).side = .watching
    ∧ (s.bufs.get 0).markMemory = some 999
    ∧ ((s.bonds.get 0).rel.recordArrival 0 999).allArrived (s.bonds.get 0).laneCount = true
    ∧ ((s.bonds.get 0).rel.recordArrival 0 999).earliest = some 990
    ∧ ((s.bonds.get 0).rel.recordArrival 0 999).maxOffset 990 (s.bonds.get 0).laneCount = 9
    ∧ (0 : Index).val < (s.bonds.get 0).laneCount
    ∧ 9 ≤ (s.bonds.get 0).cfg.skewLimit.toNat := by decide

theorem test_hyps_CurrentCallWordFollowsTheBond :
    aligningBond.profile = some testProfile ∧ offBond.profile = none ∧ offBond.state = .disabled
    ∧ holdingBond.state = .holding ∧ ({ aligningBond with state := .halted } : Bond).state = .halted
    ∧ callingBond.state = .calling ∧ aligningBond.state = .aligning ∧ (runningBond 1).state = .running
    ∧ (seatBond .move 2).state = .mending ∧ (seatBond .move 2).mend.map MendRec.phase = some .seat
    ∧ (∀ method, let m : MendRec := ⟨0, 0, .strikes, method, 2, some 1, .announce, .inProgress, none⟩
        let bd : Bond := { seatBond method 2 with mend := some m }
        bd.state = .mending ∧ bd.mend = some m ∧ m.phase = .announce ∧ m.method = method) :=
  ⟨rfl, rfl, rfl, rfl, rfl, rfl, rfl, rfl, rfl, rfl, fun _ => ⟨rfl, rfl, rfl, rfl⟩⟩

theorem test_hyps_ConfigurationWritesStoreOrAreRefused :
    State.reset.Takes false (bondAddr 3 9) .idle ∧ (State.reset.bonds.get 3).state = .disabled
    ∧ invState.Takes false (bondAddr 0 0) .idle ∧ (invState.bonds.get 0).state ≠ .disabled :=
  ⟨rfl, by decide, rfl, by decide⟩

/-- BD0 DISABLED with a configuration, beside BD1, which claims lane 3. -/
def startState (cfg : BondConfig) : State :=
  let s := testState { offBond with cfg := cfg } [] .closed
  { s with bonds := { s.bonds with c1 := { holdingBond with cfg := { testConfig with members := 8, spare := none } } } }

theorem test_hyps_StartIsRefusedByTheFirstReason :
    (startState testConfig).Takes false (bondAddr 0 10) .idle
    ∧ (invState.bonds.get 0).state ≠ .disabled ∧ ((startState testConfig).bonds.get 0).state = .disabled
    ∧ ({ testConfig with members := 0 } : BondConfig).members = 0
    ∧ (let s := startState { testConfig with members := 9 }
       (s.bonds.get 0).cfg.names 3 = true ∧ (s.bonds.get 1).claims 3 = true)
    ∧ (let c : BondConfig := { testConfig with spare := some 1 }; c.spare = some 1 ∧ c.isMember 1 = true)
    ∧ (let s := startState { testConfig with members := 0x83 }
       (s.bonds.get 0).cfg.isMember 7 = true ∧ (s.lanes.get 7).enable = false)
    ∧ (let c : BondConfig := { testConfig with matchMode := .exact }
       c.matchMode = .exact ∧ c.expShape.lanes ≠ c.memberList.length)
    ∧ (let c : BondConfig := { testConfig with matchMode := .exact, expShape := ⟨1, 0, 2⟩ }
       c.expShape.lanes = c.memberList.length ∧ ¬ c.expShape.channels ∣ c.expShape.lanes * c.expShape.sweep)
    ∧ (let c : BondConfig := { testConfig with skewLimit := 769 }; 768 < c.skewLimit.toNat)
    ∧ (let c : BondConfig := { testConfig with retrainLimit := 8 }; 7 < c.retrainLimit.toNat) := by
  refine ⟨rfl, ?_⟩
  decide

theorem test_hyps_StartPassesIntoHolding :
    let s := startState { testConfig with
      skewLimit := 768, retrainLimit := 7, matchMode := .exact, expShape := ⟨1, 0, 15⟩ }
    let c := (s.bonds.get 0).cfg
    s.Takes false (bondAddr 0 10) .idle ∧ (s.bonds.get 0).state = .disabled ∧ c.members ≠ 0
    ∧ (∀ n b, b ≠ 0 → c.names n = true → (s.bonds.get b).claims n = false)
    ∧ (∀ n, c.spare = some n → c.isMember n = false) ∧ (∀ n, c.isMember n = true → (s.lanes.get n).enable = true)
    ∧ c.expShape.lanes = c.memberList.length ∧ c.expShape.channels ∣ c.expShape.lanes * c.expShape.sweep
    ∧ c.skewLimit.toNat ≤ 768 ∧ c.callTimeout ≠ 0 ∧ c.alignTimeout ≠ 0 ∧ c.mendTimeout ≠ 0
    ∧ c.retrainLimit.toNat ≤ 7 := by
  refine ⟨rfl, ?_⟩
  decide

theorem test_hyps_StopTakesABondToDisabled :
    invState.Takes false (bondAddr 0 10) .idle ∧ (invState.bonds.get 1).state = .disabled
    ∧ ((invState.bonds.get 0).state ≠ .disabled ∧ (invState.bonds.get 0).rd.state = .reading
      ∧ (invState.bonds.get 0).rd.inSweep (invState.bonds.get 0).runSweep = false)
    ∧ (runningBond 2).rd.inSweep (runningBond 2).runSweep = true
    ∧ (runningBond 32).rd.inSweep (runningBond 32).runSweep = true
    ∧ (runningBond 0).rd.inSweep (runningBond 0).runSweep = false ∧ (seatBond .move 2).state = .mending := by
  refine ⟨rfl, ?_⟩
  decide

theorem test_hyps_RetrainTakesABondToHolding :
    invState.Takes false (bondAddr 0 10) .idle ∧ (invState.bonds.get 1).state = .disabled
    ∧ (invState.bonds.get 0).state ≠ .disabled ∧ invState.membersLocked 0 = true
    ∧ (withLane0 (seekingLane 0 0 true) invState).membersLocked 0 = false := by
  refine ⟨rfl, ?_⟩
  decide

theorem test_hyps_ClearFaultEmptiesTheRecord : invState.Takes false (bondAddr 3 10) .idle := rfl

theorem test_hyps_ClearCountersZeroesFiveCounters : invState.Takes false (bondAddr 0 10) .idle := rfl

theorem test_hyps_BondTimeoutsAreFaults :
    let s := expiredState
    ((s.bonds.get 0).state = .holding ∧ (s.bonds.get 0).holdTimer.due = true)
    ∧ ((s.bonds.get 1).state = .calling ∧ (s.bonds.get 1).callTimer.due = true)
    ∧ ((s.bonds.get 2).state = .aligning ∧ (s.bonds.get 2).alignTimer.due = true)
    ∧ ((s.bonds.get 3).state = .mending ∧ (s.bonds.get 3).mendTimer.due = true ∧ (s.bonds.get 3).mend.isSome = true)
    ∧ (dueState.bonds.get 0).holdTimer.due = false ∧ (dueState.bonds.get 1).callTimer.due = false
    ∧ (dueState.bonds.get 2).alignTimer.due = false ∧ (dueState.bonds.get 3).mendTimer.due = false
    ∧ (s.bonds.get 2).state ≠ .holding ∧ (s.bonds.get 2).state ≠ .calling ∧ (s.bonds.get 0).state ≠ .aligning
    ∧ (s.bonds.get 0).state ≠ .mending ∧ (s.bonds.get 0).retrain < (s.bonds.get 0).cfg.retrainLimit.toNat
    ∧ ({ testConfig with retrainLimit := 0 } : BondConfig).retrainLimit.toNat ≤ 0 := by decide

theorem test_hyps_LaneFaultInRunningMendsOrFaults :
    ((invState.lanes.get 1).mode = .locked ∧ invState.owner 1 = some 0 ∧ (invState.bonds.get 0).state = .running
      ∧ (invState.bonds.get 0).cfg.isMember 1 = true ∧ (invState.bonds.get 0).indexOf 1 = some 1
      ∧ invState.inFlightFrom 0 (.receiver 1) = false ∧ invState.inFlightFrom 0 .rollCall = false
      ∧ (invState.bonds.get 0).laneCount = 2 ∧ ∀ j : Index, j < 0 → j = 1)
    ∧ ((invState.bonds.get 0).cfg.mending = true ∧ (invState.bonds.get 0).cfg.spare = some 2
      ∧ (invState.bonds.get 0).profile = some testProfile ∧ (invState.lanes.get 2).mode = .locked
      ∧ testProfile.spareCapable = true)
    ∧ ({ testConfig with spare := none } : BondConfig).spare = none
    ∧ ({ testConfig with mending := false } : BondConfig).mending = false
    ∧ (let s := testState { runningBond 1 with
          cfg := { testConfig with members := 1 }, map := some ⟨some 0, none, none, none, none, none, none, none⟩
          profile := some { testProfile with shape := ⟨0, 0, 0⟩ } } [.unit 7 false] .opened
       (s.lanes.get 0).mode = .locked ∧ s.owner 0 = some 0 ∧ (s.bonds.get 0).state = .running
         ∧ (s.bonds.get 0).cfg.isMember 0 = true ∧ (s.bonds.get 0).indexOf 0 = some 0
         ∧ (s.bonds.get 0).laneCount ≤ 1 ∧ (s.bonds.get 0).cfg.mending = true) := by decide

/-- Entries of the test profile with the index of their lane's number. -/
def confirmedState : State :=
  let s := testState callingBond [] .closed
  { s with rolls := s.rolls.mapIdx fun n r => { r with
      entry := ⟨.confirmed, 3, ⟨testProfile, BitVec.ofNat 3 n.val, []⟩, 9, 0, 0⟩ } }

theorem test_hyps_RollCallThatPassesEntersAligning :
    let s := confirmedState
    let c := (s.bonds.get 0).cfg
    c.memberList.head? = some 0 ∧ (∀ m, c.isMember m = true → (s.rolls.get m).entry.record.common = testProfile)
    ∧ testProfile.shape.lanes = c.memberList.length
    ∧ (∀ m, c.isMember m = true → (s.rolls.get m).entry.record.logicalIndex.toNat < testProfile.shape.lanes)
    ∧ (∀ m m', c.isMember m = true → c.isMember m' = true →
      (s.rolls.get m).entry.record.logicalIndex = (s.rolls.get m').entry.record.logicalIndex → m = m')
    ∧ (c.matchMode = .exact → c.firstMismatch testProfile = none) ∧ testProfile.shape.usable = true := by decide

/-- RUNNING in TIMED mode, with the release epoch phase at `q`. -/
def timedBond (q : Nat) (policy : EpochPolicy) : Bond :=
  { runningBond 1 with
    cfg := { testConfig with releaseMode := .timed, epochPolicy := policy }
    rel := { (runningBond 1).rel with releasePhase := some q } }

theorem test_hyps_EpochEventFixesOrCompares :
    State.reset.refmon.present = false ∧ invState.refmon.present = true
    ∧ (timedBond 1 .report).cfg.releaseMode = .timed
    ∧ ({ aligningBond with rel := { aligningBond.rel with state := .epochWait } } : Bond).rel.state = .epochWait
    ∧ aligningBond.rel.state = .markWait ∧ countdownBond.rel.state = .countdown ∧ offBond.rel.state = .idle
    ∧ ((seatBond .move 2).rel.state = .released ∧ (seatBond .move 2).state ≠ .running)
    ∧ ((timedBond 32 .report).rel.state = .released ∧ (timedBond 32 .report).state = .running
      ∧ (timedBond 32 .report).rel.releasePhase = some 32
      ∧ min (max 1 32 - min 1 32) ((timedBond 32 .report).runSweep + 1 - (max 1 32 - min 1 32)) = 2
      ∧ (timedBond 32 .report).cfg.epochTolerance.toNat = 2)
    ∧ (testState (timedBond 4 .retrain) [] .opened).inFlightFrom 0 .readSide = false
    ∧ ([0] : List BondId).contains 0 = true ∧ ([1] : List BondId).contains 0 = false
    ∧ ((timedBond 4 .retrain).rel.releasePhase = some 4
      ∧ min (max 1 4 - min 1 4) ((timedBond 4 .retrain).runSweep + 1 - (max 1 4 - min 1 4)) = 3
      ∧ (timedBond 4 .retrain).cfg.epochPolicy = .retrain ∧ (timedBond 4 .report).cfg.epochPolicy = .report) := by
  decide

/-- An index below 2 is 0 or 1. -/
theorem index_below_two {i : Index} (h : i.val < 2) : i = 0 ∨ i = 1 := by
  rcases (by omega : i.val = 0 ∨ i.val = 1) with h | h
  · exact .inl (Fin.ext h)
  · exact .inr (Fin.ext h)

/-- ALIGNING, with a release due as many unit times after the earliest start mark. -/
def lateReleaseState (e : Word32) (sent : List Notice) : State :=
  let s := testState { countdownBond with inFlight := sent } [.unit 7 false] .opened
  { s.modBond 0 fun bd => { bd with rel := { bd.rel with instant := some (990 + e) } } with timestamp := 990 + e }

theorem test_hyps_ReleaseStartsReading :
    let s := testState countdownBond [.unit 7 false] .opened
    let p := testState (waitingBond 0) [.unit 7 false] .opened
    let o := lateReleaseState 1025 [.overflow 0]
    ((lateReleaseState 1025 []).releaseReached 0 = true ∧ ((lateReleaseState 1025 []).bonds.get 0).rel.earliest = some 990
      ∧ 1024 < ((lateReleaseState 1025 []).timestamp - 990).toNat ∧ ((lateReleaseState 1025 []).bonds.get 0).inFlight = [])
    ∧ (o.releaseReached 0 = true ∧ (o.bonds.get 0).rel.earliest = some 990 ∧ 1024 < (o.timestamp - 990).toNat
      ∧ (o.bonds.get 0).cfg.isMember 0 = true ∧ (o.bonds.get 0).inFlight = [.overflow 0])
    ∧ ((s.bonds.get 0).rel.earliest = some 990 ∧ (s.timestamp - 990).toNat ≤ 1024)
    ∧ s.inFlightFrom 0 .readSide = false ∧ p.inFlightFrom 0 .readSide = false
    ∧ (s.bonds.get 0).profile = some testProfile ∧ invState.releaseReached 0 = false
    ∧ ((s.bonds.get 0).state = .aligning ∧ (s.bonds.get 0).rel.state = .countdown ∧ (s.bonds.get 0).rd.state = .idle
      ∧ (s.bonds.get 0).rel.instant = some s.timestamp)
    ∧ ((p.bonds.get 0).state = .aligning ∧ (p.bonds.get 0).rel.state = .countdown
      ∧ (p.bonds.get 0).rd.state = .completing ∧ (p.bonds.get 0).rel.postponed = true ∧ (p.bonds.get 0).rd.phase = 0)
    ∧ ∀ i : Index, i.val < testProfile.shape.lanes → ∃ n rest, (s.bonds.get 0).laneOf i = some n
        ∧ (s.bufs.get n).entries = .unit 7 false :: rest := by
  refine ⟨by decide, by decide, by decide, rfl, rfl, rfl, by decide, by decide, by decide, ?_⟩
  intro i hi
  rcases index_below_two hi with rfl | rfl
  · exact ⟨0, [], rfl, rfl⟩
  · exact ⟨1, [], rfl, rfl⟩

theorem test_hyps_FaultBeforeTheReleaseReportKeepsTheBondOutOfRunning :
    let s := fun sent => testState (reportedBond sent) [.unit 7 false] .opened
    (∀ sent, (s sent).refmon.present = true ∧ (∀ c, c ≠ 0 → ((s sent).bonds.get c).inFlight = [])
      ∧ ((s sent).bonds.get 0).state = .aligning ∧ ((s sent).bonds.get 0).rel.state = .released
      ∧ ((s sent).bonds.get 0).rd.state = .reading ∧ ((s sent).bonds.get 0).rd.phase = 1
      ∧ ((s sent).bonds.get 0).rd.slotTaken = true ∧ 1 < ((s sent).bonds.get 0).runSweep
      ∧ ((s sent).bonds.get 0).cfg.isMember 1 = true ∧ ((s sent).bonds.get 0).inFlight = sent) := by
  intro s sent
  refine ⟨rfl, fun c hc => ?_, rfl, rfl, rfl, rfl, rfl, (by decide : 1 < 32), (by decide : testConfig.isMember 1 = true), rfl⟩
  match c with
  | 0 => exact absurd rfl hc
  | 1 | 2 | 3 => rfl

theorem test_hyps_GapSlotTakesOneEntryFromEachReadLane :
    let s := testState (runningBond 0) [.mark, .unit 7 false] .opened
    (invState.bonds.get 1).rd.state = .idle
    ∧ ({ (runningBond 0) with rd := ⟨.reading, 0, 0, true, true⟩ } : Bond).rd.slotTaken = true
    ∧ (s.bonds.get 0).rd.state = .reading ∧ (s.bonds.get 0).rd.slotTaken = false ∧ (s.bonds.get 0).rd.phase = 0
    ∧ (s.bonds.get 0).ra.runShape = some testProfile.shape ∧ s.seatDue 0 = false
    ∧ ∀ n ∈ (s.bonds.get 0).readLanes testProfile.shape.lanes, (s.bufs.get n).entries ≠ [] := by decide

/-- A RUNNING bond at data position `j`, with a held row. -/
def rowBond (j : Nat) (st : Standing) (pol : TaintPolicy) (fill : FillMode) : Bond :=
  { runningBond (j + 1) with
    cfg := { testConfig with taintPolicy := pol, fillMode := fill }
    ra := { (runningBond 1).ra with standing := st, held := some [5, 6] } }

/-- The hypotheses of RunningReadSlotPresentsARow at data position `j` with the taint `taint` on every unit. -/
theorem test_hyps_RunningReadSlotPresentsARow (taint : Bool) :
    let s := fun (j : Nat) (st : Standing) (pol : TaintPolicy) (fill : FillMode) =>
      testState (rowBond j st pol fill) [.unit 7 taint] .opened
    (∀ j st pol fill, ((s j st pol fill).bonds.get 0).countsRunning = true
      ∧ ((s j st pol fill).bonds.get 0).rd.state = .reading
      ∧ ((s j st pol fill).bonds.get 0).rd.slotTaken = false ∧ ((s j st pol fill).bonds.get 0).rd.phase = j + 1
      ∧ ((s j st pol fill).bonds.get 0).ra.runShape = some testProfile.shape
      ∧ ((s j st pol fill).bonds.get 0).ra.standing = st ∧ ((s j st pol fill).bonds.get 0).cfg.taintPolicy = pol
      ∧ ∀ i : Index, i.val < testProfile.shape.lanes → ∃ n rest, ((s j st pol fill).bonds.get 0).laneOf i = some n
        ∧ ((s j st pol fill).bonds.get 0).rd.withdrawn.getLsbD n.val = false
        ∧ ((s j st pol fill).bufs.get n).entries = .unit 7 taint :: rest)
    ∧ (rowBond 0 .clean .fillRest .hold).HeldOk ∧ (rowBond 30 .spoiled .pass .value).HeldOk ∧ (reportedBond [.released]).countsRunning = true
    ∧ 0 + 1 < testProfile.shape.sweep ∧ 30 + 1 < testProfile.shape.sweep := by
  refine ⟨?_, by decide, by decide, by decide, by decide, by decide⟩
  intro j st pol fill
  refine ⟨rfl, rfl, rfl, rfl, rfl, rfl, rfl, ?_⟩
  intro i hi
  rcases index_below_two hi with rfl | rfl
  · exact ⟨0, [], rfl, (by decide : (0 : BitVec 8).getLsbD 0 = false), rfl⟩
  · exact ⟨1, [], rfl, (by decide : (0 : BitVec 8).getLsbD 1 = false), rfl⟩

theorem test_hyps_LastReadSlotCountsTheSweep :
    let s := testState { runningBond 32 with settle := 4095 } [.unit 7 false] .opened
    let bd := s.bonds.get 0
    bd.state = .running ∧ bd.rd.state = .reading ∧ bd.rd.slotTaken = false ∧ bd.rd.phase = 31 + 1
    ∧ 31 + 1 = testProfile.shape.sweep ∧ bd.ra.runShape = some testProfile.shape
    ∧ s.inFlightFrom 0 .readSide = false
    ∧ (∀ n ∈ bd.readLanes testProfile.shape.lanes, (s.bufs.get n).entries ≠ []) ∧ bd.rd.whole = true
    ∧ bd.settle = 4095 ∧ (runningBond 32).settle < 4095 ∧ 4096 ≤ ({ bd with settle := 4096 } : Bond).settle
    ∧ bd.HeldOk ∧ ({ runningBond 32 with rd := ⟨.reading, 32, 0, false, false⟩ } : Bond).rd.whole = false := by decide

theorem test_hyps_CompletingSlotPresentsFill :
    (∀ j, (completingBond (j + 1)).rd.state = .completing ∧ (completingBond (j + 1)).rd.slotTaken = false
      ∧ (completingBond (j + 1)).rd.phase = j + 1 ∧ (completingBond (j + 1)).ra.runShape = some testProfile.shape)
    ∧ (testState (completingBond 1) [] .closed).inFlightFrom 0 .readSide = false
    ∧ (testState (completingBond 32) [] .closed).inFlightFrom 0 .readSide = false
    ∧ (completingBond 1).HeldOk ∧ 30 + 1 ≠ testProfile.shape.sweep ∧ 31 + 1 = testProfile.shape.sweep :=
  ⟨fun _ => ⟨rfl, rfl, rfl, rfl⟩, by decide, by decide, by decide, by decide, by decide⟩

theorem test_hyps_ValidRowsComeOnlyFromRunning :
    ∃ t row, (invState.bonds.get 0).StandingOk ∧ (invState.bonds.get 0).rd.slotTaken = false
      ∧ (invState.bonds.get 0).ra.presented = none ∧ exec (.readSideSlot 0 false) invState = .next t
      ∧ (t.bonds.get 0).ra.presented = some row ∧ row.valid = true :=
  ⟨_, _, by decide, by decide, by decide, rfl, rfl, by decide⟩

theorem test_hyps_SeatCompletesAtItsJoinSlot :
    let s := fun (method : MendMethod) (joining : Lane) => testState (seatBond method joining) [.unit 7 false] .opened
    invState.seatDue 0 = false
    ∧ (∀ q ∈ [((MendMethod.move, 2) : MendMethod × Lane), (.rejoin, 0)],
        (s q.1 q.2).seatDue 0 = true ∧ ((s q.1 q.2).bonds.get 0).mend.isSome = true
        ∧ ((s q.1 q.2).bonds.get 0).MendLanesOk ∧ ((s q.1 q.2).bonds.get 0).map.isSome = true
        ∧ ((s q.1 q.2).bonds.get 0).rd.phase = 1
        ∧ ((s q.1 q.2).bonds.get 0).ra.runShape = some testProfile.shape)
    ∧ (∀ method joining, ((s method joining).bonds.get 0).mend =
        some ⟨0, 0, .strikes, method, joining, some 1, .seat, .inProgress, some 2⟩)
    ∧ (∀ i : Index, i.val < 2 → ∃ n rest,
        (if i = 0 then some 2 else ((s .move 2).bonds.get 0).laneOf i) = some n
        ∧ (i ≠ 0 → n ≠ 2 ∧ ((s .move 2).bonds.get 0).rd.withdrawn.getLsbD n.val = false)
        ∧ ((s .move 2).bufs.get n).entries = .unit 7 false :: rest) := by
  refine ⟨by decide, by decide, fun _ _ => rfl, ?_⟩
  intro i hi
  rcases index_below_two hi with rfl | rfl
  · exact ⟨2, [], rfl, by decide, rfl⟩
  · exact ⟨1, [], rfl, by decide, rfl⟩

theorem test_hyps_ResetsReturnEverythingButTheQueue :
    invState.Takes false (globalAddr 1) .idle ∧ (0x0001 : Word).getLsbD 0 = true
    ∧ ({ invState with port := { invState.port with txn := .active false true (globalAddr 1) } } : State).Takes false
        (globalAddr 1) (.active false true (globalAddr 2)) := ⟨rfl, by decide, rfl⟩

theorem test_hyps_SnapshotRequestIsJudged :
    invState.Takes false (snapAddr 0) .idle ∧ (2 : BitVec 2) ≠ 3 ∧ dueState.snap.state = .armed
    ∧ (invState.snap.state ≠ .armed ∧ invState.snap.state ≠ .filling) ∧ (invState.lanes.get 7).mode = .off
    ∧ (invState.lanes.get 0).mode ≠ .off := ⟨rfl, by decide, by decide, by decide, by decide, by decide⟩

theorem test_hyps_SnapshotCancelAndTimeoutAbort :
    (expiredState.snap.state = .armed ∧ expiredState.snap.timer.due = true) ∧ invState.snap.state ≠ .armed
    ∧ dueState.snap.timer.due = false ∧ dueState.Takes false (snapAddr 0) .idle
    ∧ invState.Takes false (snapAddr 0) .idle ∧ invState.snap.state ≠ .filling :=
  ⟨by decide, by decide, by decide, rfl, rfl, by decide⟩

theorem test_hyps_PendingClearClearsWhatIsWrittenOne :
    ∀ g : FlagGroup, invState.Takes false (pendingAddr g) .idle := fun _ => rfl

theorem test_hyps_InspectionSelectStoresBondAndItem :
    invState.Takes false (globalAddr 9) .idle ∧ ((0x0017 : Word).extractLsb' 2 3).toNat = 5
    ∧ ((0x0018 : Word).extractLsb' 2 3).toNat = 6 := ⟨rfl, by decide, by decide⟩

theorem test_hyps_RegisterWriteStoresOrIsIgnored :
    (∀ a, invState.Takes false a .idle) ∧ (0x0006 : Word).getLsbD 0 = false ∧ regAt 0x000 = .global 0
    ∧ regAt 0x1F0 = .unmapped ∧ regAt 0x1E8 = .snap 24 ∧ regAt 0x090 = .entry 0 0 ∧ regAt 0x01F = .lane 0 15
    ∧ regAt 0x11B = .bond 0 11 := ⟨fun _ => rfl, by decide⟩

theorem test_hyps_TransactionsOpenAndEnd :
    (0xC1FF : Word).extractLsb' 9 5 = 0 ∧ (0x0200 : Word).extractLsb' 9 5 ≠ 0 ∧ (0x2000 : Word).extractLsb' 9 5 ≠ 0
    ∧ (1 : Fin 16) ≠ 0 ∧ (15 : Fin 16) ≠ 0 ∧ invState.port.txn ≠ .ended
    ∧ (after (.transactionHeader 0x0200) invState).port.txn = .ended := by decide

theorem test_hyps_ReadSlotsSampleAndFillTheCopy :
    (∀ a, invState.Takes true a .idle)
    ∧ (heldAt (regAt 0x003) = some (.timestamp, 0) ∧ (regAt 0x003).isMapped = true)
    ∧ (let s := after (.holdingCopyFill 0x003) invState
       heldAt (regAt 0x004) = some (.timestamp, 0 + 1) ∧ (regAt 0x004).isMapped = true
         ∧ s.port.copy = some ⟨.timestamp, [1000, 0]⟩ ∧ ([1000, 0] : List Word)[0 + 1]? = some 0)
    ∧ (heldAt (regAt 0x09F) = some (.entry 0, 14 + 1) ∧ (regAt 0x09F).isMapped = true ∧ invState.port.copy = none)
    ∧ (heldAt (regAt 0x000) = none ∧ (regAt 0x000).isMapped = true)
    ∧ (regAt 0x01B).isMapped = false ∧ (regAt 0x1FF).isMapped = false := by
  refine ⟨fun _ => rfl, ?_⟩
  decide

theorem test_hyps_DataWordsNotTakenHaveNoEffect :
    (∀ a, (Txn.ended).take false a = none ∧ (Txn.ended).take true a = none)
    ∧ (Txn.active true true (bondAddr 0 10)).take false (bondAddr 0 10) = none
    ∧ (Txn.active false true (laneAddr 0 0)).take false (laneAddr 1 0) = none
    ∧ (Txn.active false true (snapAddr 1)).take false (snapAddr 0) = none
    ∧ (Txn.active true true (pendingAddr .global)).take false (pendingAddr .global) = none :=
  ⟨fun _ => ⟨rfl, rfl⟩, by decide⟩

theorem test_hyps_IrqFollowsPendingAndEnabledFlags :
    let s : State := { invState with irq := { Irq.reset with globalPending := 3, globalEnable := 1 } }
    (∀ g, s.Takes false (pendingAddr g) .idle) ∧ s.irq.asserted = true
    ∧ readWord s (regAt (pendingAddr .global)) &&& ~~~(1 : Word) ≠ 0
    ∧ (after (.pendingClear .global 1) s).irq.asserted = false
    ∧ (after (.pendingClear .global 2) s).irq.asserted = true := by
  refine ⟨fun _ => rfl, ?_⟩
  decide

/-! ## Commands on these states -/

/-- The row of a release is VALID and FIRST, and a gap slot presents none. -/
theorem test_release_row :
    ((after (.release 0) (testState countdownBond [.unit 7 false] .opened)).bonds.get 0).portRow
      = some ([7, 7, 0, 0, 0, 0, 0, 0], 0x03)
    ∧ ((after (.readSideSlot 0 false) (testState (runningBond 0) [.mark] .opened)).bonds.get 0).portRow = none := by
  decide

/-- The port stays STREAMING through the unit time of a completed sweep's last row, and the next one finds it IDLE. -/
theorem test_completing_ends_with_its_last_row :
    let s := after (.readSideSlot 0 false) (testState (completingBond 32) [] .closed)
    (s.bonds.get 0).portRow = some ([0, 0, 0, 0, 0, 0, 0, 0], 0) ∧ (s.bonds.get 0).idleLines = none
    ∧ ((after .timestampCounterAdvance s).bonds.get 0).portRow = none
    ∧ ((after .timestampCounterAdvance s).bonds.get 0).idleLines = some ([0, 0, 0, 0, 0, 0, 0, 0], 0) := by decide

/-- A lock loss on its way (R164): LOCK_LOST stands without FAULT until the bond takes the notice, and RETRAIN in between
leaves no fault (R73); a CALL_TIMEOUT after that RETRAIN does not happen (R76). -/
theorem test_notice_on_its_way :
    let bd : Bond := { aligningBond with cfg := { testConfig with mending := false } }
    let s := after (.frequencyLoss 0 true) (testState bd [] .closed)
    let r := after (.retrain 0) s
    s.laneFlag 0 .lockLost = true ∧ s.bondFlag 0 .fault = false
    ∧ (after .timestampCounterAdvance s).bondFlag 0 .fault = true
    ∧ (after .timestampCounterAdvance r).bondFlag 0 .fault = false
    ∧ ((after (.callTimeout 0) (after (.retrain 0) (testState callingBond [] .closed))).bonds.get 0).fault = none := by
  decide

/-- Entry-status notices on their way (R53): SEEN from a first record, STALE beside the lock-lost notice, EMPTY from each
entry that the entry to CALLING clears; none of them moves the bond (R81). -/
theorem test_entry_status_notices :
    let sent := fun s : State => (s.bonds.get 0).inFlight
    let seen := after (.laneSymbol 0 (.data testWords.2.2) { prompt with lateEntry := true }) (ownedOpenState Entry.reset)
    sent seen = [.entryStatus 0 .seen]
    ∧ sent (after (.frequencyLoss 0 true true) seen) = [.entryStatus 0 .seen, .entryStatus 0 .stale, .lockLost 0 .frequency]
    ∧ sent (after (.retrain 0) confirmedState) = [.entryStatus 0 .empty, .entryStatus 1 .empty]
    ∧ (∀ st ∈ [EntryStatus.empty, .seen, .stale], bondTakes 0 (.entryStatus 0 st) confirmedState = confirmedState)
    ∧ ((bondTakes 0 (.entryStatus 0 .confirmed) confirmedState).bonds.get 0).state = .aligning := by decide

/-- A lock-lost notice that outlasts its unit time (R106): the buffer drains, the UNDERFLOW of a later unit time is taken
first, and the notice is still on its way. -/
theorem test_underflow_before_lock_lost :
    let s := after (.readSideSlot 0 false) (after (.frequencyLoss 0 true) invState)
    let s := { s with bufs := s.bufs.set 1 { s.bufs.get 1 with entries := [.unit 8 false, .unit 9 false] } }
    let t := after (.readSideSlot 0 false) (after (.timestampCounterAdvance (some [])) s)
    (s.bufs.get 0).entries = [] ∧ (s.bonds.get 0).state = .running ∧ (t.bonds.get 0).state = .mending
    ∧ (t.bonds.get 0).mend.map MendRec.cause = some .underflow
    ∧ (t.bonds.get 0).inFlight = [.lockLost 0 .frequency]
    ∧ ((after (.timestampCounterAdvance (some [(0, .receiver 0)])) t).bonds.get 0).inFlight = [] := by decide

/-- A candidate mark taken after the late MARK_SLIP of the same write side (R75, R131): the slip abandons the seat in
progress (R135), and the candidate begins another. -/
theorem test_candidate_after_mark_slip :
    let bd : Bond := { seatBond .rejoin 0 with inFlight := [.markSlip 0], lineKind := .resume }
    let s := testState bd [] .closed
    let s := (s.modBuf 0 fun bf => { bf with markMemory := some 999 }).modBuf 1 fun bf => { bf with latestMark := some 995 }
    let t := after (.laneSymbol 0 (.data 9) prompt) s
    (t.bonds.get 0).inFlight = [] ∧ (t.bonds.get 0).seat = some 1002 ∧ (t.bufs.get 0).side = .opened
    ∧ (t.bonds.get 0).mend.bind MendRec.offset = some 4 := by decide

/-- A lock loss whose notice is still on its way as the lane locks again (R92): the notice arrives in HOLDING, and the
bond goes on to CALLING with no fault. -/
theorem test_loss_arrives_before_relock :
    let t := after (.laneSymbol 0 .idle prompt)
      (withLane0 (seekingLane 31 0 true) (testState { holdingBond with inFlight := [.lockLost 0 .reference] } [] .closed))
    (t.bonds.get 0).state = .calling ∧ (t.bonds.get 0).fault = none ∧ (t.bonds.get 0).inFlight = [] := by decide

/-- What a new attempt and a seat find no longer on its way (R90, R92, R97, R138), and a SKEW report with the map index of
the moment it is taken (R160). -/
theorem test_old_reports :
    let c := confirmedState.modBond 0 fun bd =>
      { bd with inFlight := [.overflow 0, .lockLost 2 .reference, .lockLost 1 .strikes, .epochDrift] }
    let m : Bond := { seatBond .rejoin 0 with inFlight := [.sweepCompleted true, .underflow 0, .underflow 1, .epochDrift] }
    let k : Bond := { aligningBond with map := some ⟨some 1, some 0, none, none, none, none, none, none⟩ }
    ((evaluateRollCall 0 c).bonds.get 0).inFlight = [.lockLost 1 .strikes]
    ∧ ((completeSeat 0 (testState m [] .closed)).bonds.get 0).inFlight = [.underflow 1]
    ∧ ((bondTakes 0 (.skew (some 0) 20) (testState k [] .closed)).bonds.get 0).fault.bind FaultRec.index = some 1 := by
  decide

/-- A MARK_SLIP of an ended attempt that lies behind the CONFIRMED notice which brings the next one about is no fault of
it: it has arrived in CALLING (R97; log 1). -/
theorem test_old_report_behind_confirmed :
    let s := (confirmedState.modBond 0 fun bd => { bd with inFlight := [.entryStatus 0 .confirmed, .markSlip 0] }).landed
    (s.bonds.get 0).state = .aligning ∧ (s.bonds.get 0).fault = none ∧ (s.bonds.get 0).inFlight = [] := by decide

/-- A MARK_SLIP of a CLOSED write side outside a mend does not arrive with a MARK and a DATA symbol of its lane, which is
no candidate mark there (R75, R131). -/
theorem test_late_slip_outside_mend :
    let s := testState { holdingBond with inFlight := [.markSlip 0] } [] .closed
    let t := after (.laneSymbol 0 (.data 9) prompt) (s.modBuf 0 fun bf => { bf with markMemory := some 999 })
    (t.bonds.get 0).inFlight = [.markSlip 0] := by decide

/-- The last row of a sweep whose UNDERFLOW ends the run in the same step stands on its port through that unit time
(R118, R142). -/
theorem test_last_row_of_a_faulted_run :
    let s := after (.readSideSlot 0 false)
      (testState { runningBond 32 with cfg := { testConfig with mending := false } } [] .opened)
    let t := after .timestampCounterAdvance s
    (s.bonds.get 0).state = .calling ∧ (s.bonds.get 0).rd.state = .idle ∧ (s.bonds.get 0).portRow.isSome = true
    ∧ (s.bonds.get 0).idleLines = none ∧ (t.bonds.get 0).portRow = none ∧ (t.bonds.get 0).idleLines.isSome = true := by
  decide

/-- The sweep-completed notice, with whole no, at the last slot of a sweep in COMPLETING (R115, R118). -/
theorem test_completing_sends_its_notice :
    ∀ phase ∈ [31, 32], let t := after (.readSideSlot 0 true true) (testState (completingBond phase) [] .closed)
      (t.bonds.get 0).inFlight = if phase = 32 then [.sweepCompleted false] else [] := by decide

/-- A start mark more than 1024 unit times after the earliest finds the OVERFLOW of the earliest member taken, and no
SKEW (R158; log 1). -/
theorem test_overdue_start_mark :
    let s := (lastMarkState.modBond 0 fun bd => { bd with inFlight := [.overflow 1] }).modBuf 0 fun bf =>
      { bf with markMemory := some (990 + 1030) }
    let t := after (.laneSymbol 0 (.data 7) prompt) { s with timestamp := 990 + 1031 }
    (t.bonds.get 0).fault.map (fun f => (f.cause, f.lane)) = some (.overflow, some 1)
    ∧ (t.bonds.get 0).rel.skew = none := by decide

/-- A late OVERFLOW, or a late notice of a lost lock, has arrived as a release is reached more than 1024 unit times after the
earliest start mark, and one at 1024 or less may be behind the release (R112, R194; log 1). A
RELEASE before the earliest member's 1025th entry of the same unit time is no release (R111; log 36). -/
theorem test_release_past_the_depth :
    let t := fun e sent => (after (.release 0) (lateReleaseState e sent)).bonds.get 0
    (t 1025 [.overflow 0]).fault.map (fun f => (f.cause, f.stateAt)) = some (.overflow, .aligning)
    ∧ (t 1025 [.overflow 0]).rel.state = .idle ∧ (t 1025 [.lockLost 0 .frequency]).rel.state = .idle
    ∧ (t 1024 [.lockLost 0 .frequency]).rel.state = .released ∧ (t 1024 []).state = .running
    ∧ (t 1025 []).rel.state = .countdown := by decide

/-- A seat mark more than S + 1 unit times behind the reference lane's latest mark: the sweeps are counted on (log 35). -/
theorem test_behind_an_ended_reference :
    behindReference 1100 1000 32 = 1 ∧ behindReference 1033 1000 32 = 0 ∧ behindReference 1032 1000 32 = 32 := by decide

/-- A write side still OPEN at the next unit time's symbol classified in SEEKING closes there, and its lane is withdrawn
while the lock-lost notice is on its way (R106, R123). -/
theorem test_seeking_symbol_before_lock_lost :
    let s := after (.laneSymbol 0 .other { prompt with lateNotice := true }) (withLane0 (strikeLane 3 0) invState)
    let t := after (.laneSymbol 0 .idle prompt) (after (.timestampCounterAdvance (some [])) s)
    (s.bufs.get 0).side = .opened ∧ (t.bufs.get 0).side = .closed ∧ (t.bonds.get 0).rd.withdrawn = 1
    ∧ (t.bonds.get 0).inFlight = [.lockLost 0 .strikes] ∧ (t.bonds.get 0).state = .running := by decide

/-- A CALL_WORD_SLOT off the schedule begins a slot and leaves the schedule (log 31). -/
theorem test_slot_off_schedule :
    (after .callWordSlot State.reset).lineStarted = true ∧ (after .callWordSlot State.reset).slotDue = true := by decide

/-- The fault of R112 taken between a release and its report, as the next unit time begins. -/
theorem test_fault_before_release_report :
    let t := after .timestampCounterAdvance
      (testState (reportedBond [.lockLost 1 .frequency, .released]) [.unit 7 false] .opened)
    (t.bonds.get 0).fault.map (fun f => (f.cause, f.stateAt)) = some (.laneLost, .aligning)
    ∧ (t.bonds.get 0).rd.state = .completing ∧ t.bondFlag 0 .runningEntered = false := by decide

/-- A fourth strike at a mark position (R97): whichever message is first, the lane no longer reads LOCKED when the bond
takes it, and one fault is counted. -/
theorem test_strike_at_mark_position :
    let bd : Bond := { runningBond 1 with cfg := { testConfig with mending := false } }
    let s := testState bd [.unit 7 false] .opened
    let s := { s with
      lanes := s.lanes.set 0 { lockedLane with strikes := 3 }
      bufs := s.bufs.set 0 { s.bufs.get 0 with sweepCount := 32 } }
    ∀ first, let t := after (.laneSymbol 0 .other { prompt with noticeFirst := first }) s
      (t.bonds.get 0).state = .holding ∧ (t.bonds.get 0).faultCount = 0 := by decide

/-- A CANCEL beside trigger code 3 is a CANCEL (log 29). -/
theorem test_cancel_beside_trigger_three :
    (after (.registerWrite (snapAddr 0) 0x0062) dueState).snap.abort = some .cancelled
    ∧ (after (.registerWrite (snapAddr 0) 0x0062) dueState).globalFlag .portError = false := by decide

/-- SDO is undriven with CSN high and driven while a transaction stands, 0 after it has ended (log 30). -/
theorem test_sdo :
    State.reset.port.sdo = none ∧ (after (.transactionHeader 0xC000) State.reset).port.sdo = some 0
    ∧ (after (.pinReset true) invState).port.sdo = some 0 ∧ invState.heldInReset.port.sdo = none := by decide

/-- The fourth strike of a member in RUNNING starts a MOVE mend to the spare. -/
theorem test_strike_starts_mend :
    let t := after (.laneSymbol 0 .other prompt) (withLane0 (strikeLane 3 0) invState)
    (t.bonds.get 0).state = .mending ∧ (t.bonds.get 0).callWord = ⟨.move, 3, 0⟩
    ∧ (t.bonds.get 0).mend = some ⟨0, 0, .strikes, .move, 2, some 1, .announce, .inProgress, none⟩
    ∧ (t.bufs.get 0).entries = [] ∧ t.bondFlag 0 .mendStarted = true := by decide

/-- A roll call of two CONFIRMED entries passes: the map, and the spare's write side stays CLOSED. -/
theorem test_roll_call_passes :
    let s := evaluateRollCall 0 confirmedState
    (s.bonds.get 0).state = .aligning ∧ (s.bonds.get 0).profile = some testProfile
    ∧ (s.bonds.get 0).mapWord 0 = 0x0098 ∧ (s.bufs.get 2).side = .closed := by decide

/-- The last start mark within the skew limit sets the release instant; one unit more is the fault SKEW. -/
theorem test_start_marks :
    ((after (.laneSymbol 0 (.data 7) { prompt with noticeFirst := false }) lastMarkState).bonds.get 0).rel.instant = some 1003
    ∧ ((after (.laneSymbol 0 (.data 7) { prompt with noticeFirst := false })
        { lastMarkState with bufs := lastMarkState.bufs.set 0 { lastMarkState.bufs.get 0 with markMemory := some 1000 } }).bonds.get
          0).fault.map (fun f => (f.cause, f.lane, f.index, f.detail)) = some (.skew, some 0, some 0, some (.skew 10)) := by
  decide

/-- START with every member LOCKED goes on to CALLING, and its command result reads back. -/
theorem test_start_result :
    let t := after (.start 0) (startState testConfig)
    (t.bonds.get 0).state = .calling ∧ readWord t (regAt (bondAddr 0 28)) = 0x1009
    ∧ readWord (after (.start 0) (startState { testConfig with members := 9 })) (regAt (bondAddr 0 29)) = 0xBA00 := by
  decide

/-- A MOVE seat: the spare becomes the member, and logical 0 arrives 2 after the reference. -/
theorem test_seat_completes :
    let t := after (.seatComplete 0) (testState (seatBond .move 2) [.unit 7 false] .opened)
    (t.bonds.get 0).state = .running ∧ (t.bonds.get 0).cfg.memberList = [1, 2] ∧ (t.bonds.get 0).cfg.spare = none
    ∧ (t.bonds.get 0).rel.arrivals.c0 = some 995 ∧ (t.bonds.get 0).offsets.c0 = some 5 := by decide

/-- A write of two configuration words in one transaction: the address steps. -/
theorem test_transaction_steps :
    let s := after (.bondConfigWrite 0 1 0x0221) (after (.bondConfigWrite 0 0 0x0703)
      (after (.transactionHeader 0x4110) State.reset))
    (s.bonds.get 0).cfg.memberList = [0, 1] ∧ (s.bonds.get 0).cfg.mending = true
    ∧ s.port.txn = .active false true 0x112 := by decide

/-- No word spells a command of this table. -/
theorem test_no_word_spells_a_command : decodeTableWord 16 0x1234 = none ∧ core.reset.withFetchWord 16 0 = State.reset :=
  ⟨rfl, rfl⟩

end Sys2Proof.Tests
end

/-! The announcement table: how an entry takes the outcome of a record, and the outcomes that leave its status. -/

namespace Sys2Proof.Machine

/-- A record is identical to the stored one only where the entry holds one: in SEEN and CONFIRMED (R44). -/
theorem Entry.matches_iff (e : Entry) (r : Record) :
    e.matches r = true ↔ (e.status = .seen ∨ e.status = .confirmed) ∧ e.record = r := by
  simp [Entry.matches]

/-- At the confirming count the repeat count stands and the entry is CONFIRMED; the capture timestamp moves (R46). -/
theorem Entry.takeValid_confirmed {e : Entry} {r : Record} (now : Word32) (hstatus : e.status = .confirmed)
    (hrepeats : e.repeats = Config.confirmCount) (hmatch : e.matches r = true) :
    e.takeValid r now = { e with captured := now } := by
  obtain ⟨status, repeats, record, captured, checkFailures, malformed⟩ := e
  subst hstatus hrepeats
  simp [Entry.takeValid, hmatch]

/-- An identical record raises a flag as it confirms a SEEN entry and at no other time (R45, R46). -/
theorem Entry.outcomeFlag_confirmed {e : Entry} {r : Record} (hstatus : e.status = .confirmed)
    (hmatch : e.matches r = true) : e.outcomeFlag (.valid r) = none := by
  simp [Entry.outcomeFlag, hmatch, hstatus]

@[simp] theorem raiseLaneFlag_rolls (s : State) (n : Lane) (f : Option LaneFlag) :
    (s.raiseLaneFlag n f).rolls = s.rolls := by
  cases f <;> rfl

/-- An outcome that leaves the entry's status sends no notice (R53). -/
theorem takeOutcome_of_status_eq {n : Lane} {o : RecordOutcome} (late : Bool) (s : State)
    (h : ((s.rolls.get n).entry.takeOutcome o s.timestamp).status = (s.rolls.get n).entry.status) :
    takeOutcome n o late s =
      (s.modRoll n fun r => { r with entry := r.entry.takeOutcome o s.timestamp }).raiseLaneFlag n
        ((s.rolls.get n).entry.outcomeFlag o) := by
  refine entryNotice_same late ?_
  rw [raiseLaneFlag_rolls, State.modRoll_get, if_pos rfl, h]

/-- Settles O25: the entry keeps its status, so there is no notice, and no flag is due. -/
theorem confirmedEntryTakesIdenticalRecord : Obligations.ConfirmedEntryTakesIdenticalRecord := by
  intro n late s r hstatus hrepeats hrecord
  have hmatch : (s.rolls.get n).entry.matches r = true := (Entry.matches_iff _ r).2 ⟨.inr hstatus, hrecord⟩
  have hentry : (s.rolls.get n).entry.takeOutcome (.valid r) s.timestamp
      = { (s.rolls.get n).entry with captured := s.timestamp } :=
    Entry.takeValid_confirmed s.timestamp hstatus hrepeats hmatch
  rw [takeOutcome_of_status_eq late s (by rw [hentry]), Entry.outcomeFlag_confirmed hstatus hmatch]
  simp only [State.raiseLaneFlag, State.modRoll, hentry]

/-- Settles O26: a counter moves and the status does not, so ANNOUNCE_BAD (bit 6 of the lane's pending word) is all that
the rest of the part sees. -/
theorem checkFailureCountsAndFlags : Obligations.CheckFailureCountsAndFlags := by
  intro n late s
  have hbit : setFlag (s.irq.lanePending.get n) LaneFlag.announceBad.pos = s.irq.lanePending.get n ||| 64 := rfl
  rw [takeOutcome_of_status_eq late s rfl]
  simp only [Entry.outcomeFlag, State.raiseLaneFlag, State.raiseLane, State.modRoll, Entry.takeOutcome, hbit]

end Sys2Proof.Machine

/-! A data word the port takes acts on the state with the new transaction, and the two commands of a bond that only clear
what they name. -/

namespace Sys2Proof.Machine

/-- A word of a write transaction that the port takes has its effect once the port stands at the next transaction (R181;
log 8). -/
theorem writeWord_of_takes {s : State} {a : Addr} {x : Txn} (act : State → State) (h : s.Takes false a x) :
    writeWord a act s = act (s.withTxn x) := by
  have htake : s.port.txn.take false a = some x := h
  simp only [writeWord, dataWord, htake]
  rfl

/-- A command whose effect is one change of its bond is, with its result, one change of that bond (R65). -/
theorem writeResult_modBond (b : BondId) (c : Command) (k : ResultKind) (st : BondState) (why : Option StartRefusal)
    (f : Bond → Bond) (s : State) :
    writeResult b c k st why (s.modBond b f) =
      s.modBond b fun bd => { f bd with result := (f bd).result.record c k st why } := by
  simp [writeResult, State.modBond]

/-- CLEAR_FAULT changes its bond alone: the record, the count and the result (R71). -/
theorem takeClearFault_eq (b : BondId) (s : State) :
    takeClearFault b s = s.modBond b fun bd =>
      { bd with fault := none, faultCount := 0, result := bd.result.record .clearFault .done (s.bonds.get b).state none } :=
  writeResult_modBond b _ .done (s.bonds.get b).state none _ s

/-- CLEAR_COUNTERS changes its bond alone: the five counters and the result (R72). -/
theorem takeClearCounters_eq (b : BondId) (s : State) :
    takeClearCounters b s = s.modBond b fun bd =>
      { bd.countersCleared with result := bd.result.record .clearCounters .done (s.bonds.get b).state none } :=
  writeResult_modBond b _ .done (s.bonds.get b).state none _ s

/-- A fault of a bond without a record fills the record and leaves the count (R159). -/
theorem takeFault_of_no_record {b : BondId} {s : State} (cause : FaultCause) (lane : Option Lane) (index : Option Index)
    (detail : Option Detail) (h : (s.bonds.get b).fault = none) :
    ((takeFault b cause lane index detail s).bonds.get b).fault = some (faultRec b cause lane index detail s)
    ∧ ((takeFault b cause lane index detail s).bonds.get b).faultCount = (s.bonds.get b).faultCount :=
  (takeFault_taken b cause lane index detail s).first h

/-- Settles O37: the command is one change of the bond, and a fault that finds no record fills it and keeps the count,
which the command has set to 0. -/
theorem clearFaultEmptiesTheRecord : Obligations.ClearFaultEmptiesTheRecord := by
  intro b s x htakes
  refine ⟨takeClearFault b (s.withTxn x), ?_, takeClearFault_eq b (s.withTxn x), ?_⟩
  · exact congrArg Host.Outcome.next (writeWord_of_takes (takeClearFault b) htakes)
  · intro cause lane index detail
    have hcleared : ((takeClearFault b (s.withTxn x)).bonds.get b).fault = none
        ∧ ((takeClearFault b (s.withTxn x)).bonds.get b).faultCount = 0 := by
      simp [takeClearFault_eq]
    obtain ⟨hnone, hzero⟩ := hcleared
    obtain ⟨hrecord, hcount⟩ := takeFault_of_no_record cause lane index detail hnone
    exact ⟨by simp [hrecord], hcount.trans hzero⟩

/-- Settles O38: the port takes the word, and the command is one change of the bond. -/
theorem clearCountersZeroesFiveCounters : Obligations.ClearCountersZeroesFiveCounters := by
  intro b s x htakes
  calc exec (.clearCounters b) s
      = .next (takeClearCounters b (s.withTxn x)) :=
        congrArg Host.Outcome.next (writeWord_of_takes (takeClearCounters b) htakes)
    _ = _ := congrArg Host.Outcome.next (takeClearCounters_eq b (s.withTxn x))

end Sys2Proof.Machine

/-! The last start mark of a bond in FREE mode: what a symbol does before its write side takes it, the start mark itself,
and an epoch event as one bond and the others see it (R109, R110). -/

namespace Sys2Proof.Machine

/-! ## What a symbol does before its write side takes it -/

theorem State.SameTime.trans {s t u : State} (h : State.SameTime s t) (k : State.SameTime t u) :
    State.SameTime s u where
  timestamp := k.timestamp.trans h.timestamp
  refmon := k.refmon.trans h.refmon
  slotDue := k.slotDue.trans h.slotDue
  lineStarted := k.lineStarted.trans h.lineStarted
  pending := k.pending.trans h.pending

/-- What the receiver, the roll-call unit and the snapshot unit make of a symbol of lane `n` that a bond `b` in ALIGNING
owns: no buffer moves, no other lane, and of the bonds only what is on its way to `b`. -/
structure SymbolFrame (n : Lane) (b : BondId) (s t : State) : Prop where
  bond : ∃ xs, t.bonds.get b = { s.bonds.get b with inFlight := xs }
  others : State.OtherBonds b s t
  bufs : t.bufs = s.bufs
  lanes : State.OtherLanes n s t
  rolls : ∀ m, m ≠ n → t.rolls.get m = s.rolls.get m
  time : State.SameTime s t
  port : t.port = s.port

namespace SymbolFrame

variable {n : Lane} {b : BondId} {s t u : State}

theorem trans (h : SymbolFrame n b s t) (k : SymbolFrame n b t u) : SymbolFrame n b s u where
  bond := by
    obtain ⟨xs, hxs⟩ := h.bond
    obtain ⟨ys, hys⟩ := k.bond
    exact ⟨ys, by rw [hys, hxs]⟩
  others c hc := (k.others c hc).trans (h.others c hc)
  bufs := k.bufs.trans h.bufs
  lanes m hm := (k.lanes m hm).trans (h.lanes m hm)
  rolls m hm := (k.rolls m hm).trans (h.rolls m hm)
  time := h.time.trans k.time
  port := k.port.trans h.port

theorem withInFlight (n : Lane) (b : BondId) (xs : List Notice) (s : State) :
    SymbolFrame n b s (s.withInFlight b xs) where
  bond := ⟨xs, by simp [State.withInFlight]⟩
  others c hc := by simp [State.withInFlight, hc]
  bufs := rfl
  lanes _ _ := rfl
  rolls _ _ := rfl
  time := ⟨rfl, rfl, rfl, rfl, rfl⟩
  port := rfl

theorem modLane (n : Lane) (b : BondId) (f : LaneRx → LaneRx) (s : State) : SymbolFrame n b s (s.modLane n f) where
  bond := ⟨_, rfl⟩
  others _ _ := rfl
  bufs := rfl
  lanes m hm := by simp [hm]
  rolls _ _ := rfl
  time := ⟨rfl, rfl, rfl, rfl, rfl⟩
  port := rfl

theorem modRoll (n : Lane) (b : BondId) (f : RollCall → RollCall) (s : State) :
    SymbolFrame n b s (s.modRoll n f) where
  bond := ⟨_, rfl⟩
  others _ _ := rfl
  bufs := rfl
  lanes _ _ := rfl
  rolls m hm := by simp [hm]
  time := ⟨rfl, rfl, rfl, rfl, rfl⟩
  port := rfl

/-- Pending flags and the snapshot unit are outside the frame. -/
theorem irqSnap (n : Lane) (b : BondId) (irq : Irq) (snap : Snapshot) (s : State) :
    SymbolFrame n b s { s with irq := irq, snap := snap } where
  bond := ⟨_, rfl⟩
  others _ _ := rfl
  bufs := rfl
  lanes _ _ := rfl
  rolls _ _ := rfl
  time := ⟨rfl, rfl, rfl, rfl, rfl⟩
  port := rfl

theorem state (h : SymbolFrame n b s t) : (t.bonds.get b).state = (s.bonds.get b).state := by
  obtain ⟨xs, hxs⟩ := h.bond
  rw [hxs]

/-- The bonds claim the lanes that they claimed, so every lane keeps its owner. -/
theorem owner (h : SymbolFrame n b s t) (m : Lane) : t.owner m = s.owner m := by
  have hclaims : ∀ c, (t.bonds.get c).claims m = (s.bonds.get c).claims m := by
    intro c
    by_cases hc : c = b
    · obtain ⟨xs, hxs⟩ := h.bond
      rw [hc, hxs]
      rfl
    · rw [h.others c hc]
  simp only [State.owner, hclaims]

end SymbolFrame

/-! ### The roll-call unit -/

/-- What the roll-call unit sends has no effect on a bond in ALIGNING (R53, R81, R128). -/
theorem bondTakes_rollCall_of_aligning {b : BondId} {x : Notice} {s : State} (h : (s.bonds.get b).state = .aligning)
    (hx : x.sender = .rollCall) : bondTakes b x s = s := by
  cases x
  case entryStatus n status => cases status <;> simp [bondTakes, bondTakesEntryStatus, bondTakesConfirmed, h]
  all_goals exact absurd hx (by simp [Notice.sender])

theorem takeNext_rollCall_of_aligning {b : BondId} {s : State} (h : (s.bonds.get b).state = .aligning) :
    ∃ xs, takeNext b .rollCall s = s.withInFlight b xs := by
  unfold takeNext
  split
  · rename_i y hy
    exact ⟨_, bondTakes_rollCall_of_aligning (by simpa using h) (by simpa using List.find?_some hy)⟩
  · exact ⟨_, (s.withInFlight_self b).symm⟩

theorem takeFrom_rollCall_of_aligning {b : BondId} {s : State} (h : (s.bonds.get b).state = .aligning) :
    ∃ xs, takeFrom b .rollCall s = s.withInFlight b xs := by
  have hfold : ∀ (l : List Notice) (t : State), (t.bonds.get b).state = .aligning →
      ∃ xs, l.foldl (fun s _ => takeNext b .rollCall s) t = t.withInFlight b xs := by
    intro l
    induction l with
    | nil => exact fun t _ => ⟨_, (t.withInFlight_self b).symm⟩
    | cons _ rest ih =>
      intro t ht
      obtain ⟨xs, hxs⟩ := takeNext_rollCall_of_aligning ht
      obtain ⟨ys, hys⟩ := ih (t.withInFlight b xs) (by simpa [State.withInFlight] using ht)
      exact ⟨ys, by rw [List.foldl_cons, hxs, hys, State.withInFlight_withInFlight]⟩
  exact hfold _ s h

/-- An entry-status notice to a bond in ALIGNING changes what is on its way to it, and nothing else. -/
theorem tell_entryStatus_of_aligning {b : BondId} {s : State} (n : Lane) (status : EntryStatus) (late : Bool)
    (h : (s.bonds.get b).state = .aligning) : ∃ xs, s.tell b (.entryStatus n status) late = s.withInFlight b xs := by
  cases late
  case true => exact ⟨_, tell_late s b _⟩
  case false =>
    obtain ⟨xs, hxs⟩ := takeFrom_rollCall_of_aligning h
    refine ⟨xs, (congrArg (bondTakes b (.entryStatus n status)) hxs).trans ?_⟩
    exact bondTakes_rollCall_of_aligning (by simpa [State.withInFlight] using h) rfl

theorem entryNotice_frame {n : Lane} {b : BondId} {s : State} (was : EntryStatus) (late : Bool)
    (howner : s.owner n = some b) (h : (s.bonds.get b).state = .aligning) :
    SymbolFrame n b s (s.entryNotice n was late) := by
  by_cases hwas : (s.rolls.get n).entry.status = was
  · rw [entryNotice_same late hwas]
    exact .irqSnap n b s.irq s.snap s
  · obtain ⟨xs, hxs⟩ := tell_entryStatus_of_aligning n (s.rolls.get n).entry.status late h
    have hnotice : s.entryNotice n was late = s.withInFlight b xs := by
      simp only [State.entryNotice, if_neg hwas, State.tellOwner, State.toOwner, howner, hxs]
    rw [hnotice]
    exact .withInFlight n b xs s

theorem raiseLaneFlag_frame (n : Lane) (b : BondId) (f : Option LaneFlag) (s : State) :
    SymbolFrame n b s (s.raiseLaneFlag n f) := by
  cases f <;> exact .irqSnap n b _ s.snap s

/-- An outcome of a record, on a lane that a bond in ALIGNING owns. -/
theorem takeOutcome_frame {n : Lane} {b : BondId} {s : State} (o : RecordOutcome) (late : Bool)
    (howner : s.owner n = some b) (h : (s.bonds.get b).state = .aligning) :
    SymbolFrame n b s (takeOutcome n o late s) := by
  have hflag := (SymbolFrame.modRoll n b (fun r => { r with entry := r.entry.takeOutcome o s.timestamp }) s).trans
    (raiseLaneFlag_frame n b ((s.rolls.get n).entry.outcomeFlag o) _)
  exact hflag.trans (entryNotice_frame _ late ((hflag.owner n).trans howner) (hflag.state.trans h))

/-- The roll-call unit takes a symbol of a lane that a bond in ALIGNING owns. -/
theorem rollTake_frame {n : Lane} {b : BondId} {s : State} (cls : SymbolClass) (late : Bool)
    (howner : s.owner n = some b) (h : (s.bonds.get b).state = .aligning) :
    SymbolFrame n b s (rollTake n cls late s) := by
  have hroll := SymbolFrame.modRoll n b
    (fun r => { r with openRec := (assemble (s.rolls.get n) cls).1, prevMark := cls == .mark }) s
  unfold rollTake
  dsimp only
  split
  · exact hroll.trans (takeOutcome_frame _ late ((hroll.owner n).trans howner) (hroll.state.trans h))
  · exact hroll

/-! ### The snapshot unit and the receiver -/

theorem snapTake_frame (n : Lane) (b : BondId) (cls : SymbolClass) (s : State) :
    SymbolFrame n b s (snapTake n cls s) := by
  rw [(snapTake_snapOnly n cls s).rest]
  exact .irqSnap n b _ _ s

/-- A strike or its relief leaves the lane's state (R25). -/
@[simp] theorem LaneRx.strike_mode (l : LaneRx) (cls : SymbolClass) : (l.strike cls).mode = l.mode := by
  unfold LaneRx.strike
  split
  · split <;> rfl
  · rfl

/-- A valid symbol adds no strike (R25). -/
theorem LaneRx.strike_strikes_le {cls : SymbolClass} (l : LaneRx) (hvalid : cls.isValid = true) :
    (l.strike cls).strikes ≤ l.strikes := by
  unfold LaneRx.strike
  rw [if_pos hvalid]
  split
  · exact Nat.sub_le _ _
  · exact Nat.le_refl _

/-- A valid symbol does not end the lock (R25). -/
theorem lockedSymbol_of_valid {n : Lane} {cls : SymbolClass} {s : State} (hvalid : cls.isValid = true)
    (hstrikes : (s.lanes.get n).strikes < 4) : lockedSymbol n cls s = s.modLane n fun l => l.strike cls := by
  have hle := (s.lanes.get n).strike_strikes_le hvalid
  exact if_neg (show ¬ Config.strikeLimit ≤ ((s.lanes.get n).strike cls).strikes by
    unfold Config.strikeLimit; omega)

/-- A lane whose state has not changed sends no notice of a change (R30). -/
theorem symbolNotice_same {n : Lane} {s : State} (late lateEntry : Bool) {was : LaneMode}
    (h : (s.lanes.get n).mode = was) : symbolNotice n was late lateEntry s = s := by
  cases was <;> simp only [symbolNotice, h]

/-- A valid symbol of a LOCKED lane that a bond in ALIGNING owns: its write side takes it last, with no notice of the lane
before it or after it, so that their order does not matter (R22, R30). -/
theorem takeSymbol_of_valid {n : Lane} {b : BondId} {p : LinePattern} {cls : SymbolClass} {s : State} (h : Handing)
    (hmode : (s.lanes.get n).mode = .locked) (hstrikes : (s.lanes.get n).strikes < 4)
    (hcls : classify (s.lanes.get n).polarity p = cls) (hvalid : cls.isValid = true) (howner : s.owner n = some b)
    (hstate : (s.bonds.get b).state = .aligning) :
    ∃ t, SymbolFrame n b s t ∧ takeSymbol n p h s = writeTake n cls true h.lateReport t := by
  have hroll := rollTake_frame cls h.lateEntry howner hstate
  have hsnap := snapTake_frame n b cls (rollTake n cls h.lateEntry s)
  have hlanes : (snapTake n cls (rollTake n cls h.lateEntry s)).lanes = s.lanes := by
    rw [(snapTake_snapOnly n cls _).rest]
    exact (rollTake_rollMoves n cls h.lateEntry s).lanes
  have htake := lockedSymbol_of_valid hvalid (hlanes ▸ hstrikes)
  generalize hbefore : snapTake n cls (rollTake n cls h.lateEntry s) = t at hsnap hlanes htake
  refine ⟨t.modLane n fun l => l.strike cls, (hroll.trans hsnap).trans (.modLane n b _ t), ?_⟩
  have hlocked : ((t.modLane n fun l => l.strike cls).lanes.get n).mode = .locked := by simp [hlanes, hmode]
  have hwritten : ((writeTake n cls true h.lateReport (t.modLane n fun l => l.strike cls)).lanes.get n).mode
      = .locked := by
    rw [(writeTake_lanesStay n cls true h.lateReport _).lanes, hlocked]
  unfold takeSymbol
  simp only [hcls, hmode, hbefore, laneTake, htake, symbolNotice_same _ _ hlocked, beq_self_eq_true,
    symbolNotice_same _ _ hwritten, ite_self]

/-! ## The start mark -/

/-- No arrival offset below L is above the largest (R109). -/
theorem ReleaseUnit.offsetOf_le_maxOffset (r : ReleaseUnit) (earliest : Word32) {i : Index} {l : Nat} (hi : i.val < l) :
    (r.offsetOf earliest i).toNat ≤ r.maxOffset earliest l := by
  have hfold : ∀ (is : List Index) (m k : Nat), (k ≤ m ∨ i ∈ is ∧ k = (r.offsetOf earliest i).toNat) →
      k ≤ is.foldl (fun m i => max m (r.offsetOf earliest i).toNat) m := by
    intro is
    induction is with
    | nil => simp
    | cons j rest ih =>
      intro m k hk
      refine ih (max m (r.offsetOf earliest j).toNat) k ?_
      rcases hk with hm | ⟨hmem, rfl⟩
      · exact .inl (hm.trans (Nat.le_max_left _ _))
      · rcases List.mem_cons.mp hmem with rfl | hrest
        · exact .inl (Nat.le_max_right _ _)
        · exact .inr ⟨hrest, rfl⟩
  exact hfold (indicesBelow l) 0 _ (.inr ⟨mem_indicesBelow.mpr hi, rfl⟩)

/-- A start mark within the skew limit, which has ten bits, comes within 1024 unit times of the earliest (R105, R109). -/
theorem ReleaseUnit.overdue_of_skew_le {r : ReleaseUnit} {i : Index} {t early : Word32} {l : Nat} {limit : BitVec 10}
    (hi : i.val < l) (hearly : (r.recordArrival i t).earliest = some early)
    (hskew : (r.recordArrival i t).maxOffset early l ≤ limit.toNat) : r.overdue t = false := by
  have hoffset : (t - early).toNat ≤ limit.toNat := by
    refine le_trans ?_ hskew
    simpa [ReleaseUnit.offsetOf, ReleaseUnit.recordArrival] using
      (r.recordArrival i t).offsetOf_le_maxOffset early hi
  have hnear : r.pastDepth t = false := by
    refine ReleaseUnit.pastDepth_eq_false.mpr fun e he => ?_
    have hfirst : e = early := by simpa [ReleaseUnit.recordArrival, Option.mem_def.mp he] using hearly
    have hlimit := limit.isLt
    subst hfirst
    omega
  simp [ReleaseUnit.overdue, hnear]

/-- A bond whose start marks are all present and whose skew is within the limit: offsets and skew are written, and its
release unit goes on (R109). -/
def Bond.aligned (bd : Bond) (earliest : Word32) : Bond :=
  let skew := bd.rel.maxOffset earliest bd.laneCount
  let measured : ReleaseUnit := { bd.rel with skew := some (BitVec.ofNat 32 skew) }
  { bd with
    offsets := bd.rel.offsets earliest bd.laneCount
    rel := measured.aligned bd.cfg earliest skew }

/-- A skew within the limit sends no report (R109). -/
theorem measureSkew_of_le {b : BondId} {earliest : Word32} {s : State} (late : Bool)
    (h : (s.bonds.get b).rel.maxOffset earliest (s.bonds.get b).laneCount ≤ (s.bonds.get b).cfg.skewLimit.toNat) :
    measureSkew b earliest late s = s.modBond b fun bd => bd.aligned earliest := by
  simp [measureSkew, Nat.not_lt.mpr h, State.modBond, Bond.aligned]

/-- The last start mark of a bond, with the skew within the limit, is one change of the bond (R109). -/
theorem takeStartMark_last {b : BondId} {n : Lane} {i : Index} {t early : Word32} {s : State} (late : Bool)
    (hwait : (s.bonds.get b).rel.state = .markWait) (hindex : (s.bonds.get b).indexOf n = some i)
    (hi : i.val < (s.bonds.get b).laneCount)
    (hall : ((s.bonds.get b).rel.recordArrival i t).allArrived (s.bonds.get b).laneCount = true)
    (hearly : ((s.bonds.get b).rel.recordArrival i t).earliest = some early)
    (hskew : ((s.bonds.get b).rel.recordArrival i t).maxOffset early (s.bonds.get b).laneCount
      ≤ (s.bonds.get b).cfg.skewLimit.toNat) :
    takeStartMark b n t late s
      = s.modBond b fun bd => ({ bd with rel := bd.rel.recordArrival i t } : Bond).aligned early := by
  have hrecorded : measureSkew b early late
        (s.modBond b fun bd => { bd with rel := (s.bonds.get b).rel.recordArrival i t })
      = s.modBond b fun bd => ({ bd with rel := bd.rel.recordArrival i t } : Bond).aligned early := by
    rw [measureSkew_of_le late (by simpa [Bond.laneCount] using hskew)]
    simp [State.modBond]
  simp only [takeStartMark, ReleaseUnit.overdue_of_skew_le hi hearly hskew, Bool.false_eq_true, if_false, hwait, hindex,
    hall, if_true, hearly, Option.getD_some, hrecorded]

/-- In FREE mode the release unit goes to COUNTDOWN with its instant set (R110). -/
theorem ReleaseUnit.aligned_free (r : ReleaseUnit) {cfg : BondConfig} (earliest : Word32) (skew : Nat)
    (h : cfg.releaseMode = .free) :
    r.aligned cfg earliest skew =
      { r with
        state := .countdown
        instant := some (earliest + BitVec.ofNat 32 skew + cfg.releaseDelay.setWidth 32 + 4) } := by
  simp only [ReleaseUnit.aligned, h]
  rfl

/-- A write side in WATCHING with a MARK remembered and the GO indication at yes opens on a DATA symbol and reports the
start mark (R101). -/
theorem writeTake_startMark {n : Lane} {b : BondId} {u : Word} {t : Word32} {s : State} (late : Bool)
    (hside : (s.bufs.get n).side = .watching) (hmemory : (s.bufs.get n).markMemory = some t)
    (howner : s.owner n = some b) (hgo : (s.bonds.get b).rel.go = true) :
    writeTake n (.data u) true late s
      = takeStartMark b n t late (s.modBuf n fun bf => ({ bf with markMemory := none } : Buffer).openWith t u) := by
  have howner' : ∀ v : Eight Buffer, State.owner { s with bufs := v } n = some b := fun _ => howner
  simp [writeTake, writeAct, hside, hmemory, State.ownerGo, State.toOwner, State.modBuf, howner', hgo,
    markMemoryAfter]

/-! ## Epoch events -/

theorem compareEpoch_others (b : BondId) (late : Bool) (s : State) : State.OtherBonds b s (compareEpoch b late s) := by
  intro c hc
  have htell : ∀ (t : State) (x : Notice), (t.tell b x late).bonds.get c = t.bonds.get c := by
    intro t x
    obtain ⟨xs, h⟩ := tell_moves t b x late
    exact (h.others c hc).trans (by simp [State.withInFlight, hc])
  unfold compareEpoch
  dsimp only
  split
  · simp [hc]
  · split
    · rw [htell]
      simp [hc]
    · simp [hc]

/-- A release unit that takes an epoch event moves no other bond (R110, R111, R120). -/
theorem releaseUnitTakesEpoch_others (b : BondId) (late : Bool) (s : State) :
    State.OtherBonds b s (releaseUnitTakesEpoch b late s) := by
  intro c hc
  unfold releaseUnitTakesEpoch
  dsimp only
  split
  · rfl
  · split
    · rfl
    · rfl
    · rfl
    · simp [hc]
    · split
      · exact compareEpoch_others b late s c hc
      · rfl

/-- A release unit in FREE mode passes an epoch event over (R110). -/
theorem releaseUnitTakesEpoch_of_free {b : BondId} {s : State} (late : Bool)
    (h : (s.bonds.get b).cfg.releaseMode = .free) : releaseUnitTakesEpoch b late s = s := by
  simp only [releaseUnitTakesEpoch, h]

/-- An epoch event leaves a bond in FREE mode as it is, whatever the other bonds do with it (R110). -/
theorem takeEpoch_of_free {b : BondId} {s : State} (late : List BondId) (h : (s.bonds.get b).cfg.releaseMode = .free) :
    (takeEpoch late s).bonds.get b = s.bonds.get b := by
  have hone : ∀ (c : BondId) (t : State), t.bonds.get b = s.bonds.get b →
      (releaseUnitTakesEpoch c (late.contains c) t).bonds.get b = s.bonds.get b := by
    intro c t ht
    by_cases hc : b = c
    · subst hc
      rw [releaseUnitTakesEpoch_of_free _ (ht ▸ h), ht]
    · exact (releaseUnitTakesEpoch_others c _ t b hc).trans ht
  unfold takeEpoch
  split
  · exact List.foldlRecOn (motive := fun t : State => t.bonds.get b = s.bonds.get b) allBonds _ rfl
      fun t ht c _ => hone c t ht
  · rfl

/-! ## The obligation -/

/-- Settles O29: the symbol reaches the write side with the bond as it was but for what is on its way to it, and the start
mark is then one change of the bond, by R110's FREE case; of an epoch event only the other bonds take notice. -/
theorem freeReleaseInstantAndEpochs : Obligations.FreeReleaseInstantAndEpochs := by
  refine ⟨?_, fun late s => ⟨takeEpoch late s, rfl, fun b hfree => takeEpoch_of_free late hfree⟩⟩
  intro n b i u p h s t early skew hmode hstrikes hcls howner hstate hfree hwait hindex hi hgo hside hmemory hall hearly
    hskew hlimit
  subst hskew
  obtain ⟨s', hframe, htake⟩ := takeSymbol_of_valid h hmode hstrikes hcls rfl howner hstate
  obtain ⟨xs, hbond⟩ := hframe.bond
  have hmark : takeSymbol n p h s
      = (s'.modBuf n fun bf => ({ bf with markMemory := none } : Buffer).openWith t u).modBond b fun bd =>
          ({ bd with rel := bd.rel.recordArrival i t } : Bond).aligned early := by
    rw [htake, writeTake_startMark h.lateReport (by rw [hframe.bufs, hside]) (by rw [hframe.bufs, hmemory])
      ((hframe.owner n).trans howner) (by rw [hbond]; exact hgo)]
    apply takeStartMark_last <;> rw [State.modBuf_bonds, hbond] <;> assumption
  refine ⟨takeSymbol n p h s, ?_, ?_⟩
  · simp [exec, execLaneSymbol, hmode, LaneMode.classifies]
  · have hafter : (takeSymbol n p h s).bonds.get b
        = ({ s.bonds.get b with
              inFlight := xs, rel := (s.bonds.get b).rel.recordArrival i t } : Bond).aligned early := by
      rw [hmark, State.modBond_get, if_pos rfl, State.modBuf_bonds, hbond]
    rw [hafter]
    simp only [Bond.aligned, ReleaseUnit.aligned_free _ _ _ hfree, hstate, true_and]
    rw [hmark]
    refine ⟨rfl, rfl, ?_, ?_, ?_, hframe.lanes, hframe.time.trans ⟨rfl, rfl, rfl, rfl, rfl⟩, hframe.port, ?_⟩
    · simp [Buffer.openWith]
    · simp [Buffer.openWith]
    · exact fun c hc => by simpa [hc] using hframe.others c hc
    · exact fun m hm => ⟨by simp [hm, hframe.bufs], hframe.rolls m hm⟩

end Sys2Proof.Machine

/-! The flag groups by their pending and enable words as the host reads them: the indications, IRQ and a clear are all
stated through these two words (R163 to R168). -/

namespace Sys2Proof.Machine

/-! ## The pending and the enable word of a group -/

/-- A group's pending word (R163). -/
def Irq.pendingWord (q : Irq) : FlagGroup → Word
  | .global => q.globalPending.setWidth 16
  | .lane n => (q.lanePending.get n).setWidth 16
  | .bond b => (q.bondPending.get b).setWidth 16

/-- A group's enable word (R166). -/
def Irq.enableWord (q : Irq) : FlagGroup → Word
  | .global => q.globalEnable.setWidth 16
  | .lane n => (q.laneEnable.get n).setWidth 16
  | .bond b => (q.bondEnable.get b).setWidth 16

/-- A group's pending word is what the host reads at its address (register map). -/
theorem readWord_pendingAddr (s : State) (g : FlagGroup) :
    readWord s (regAt (pendingAddr g)) = s.irq.pendingWord g := by
  cases g with
  | global => rfl
  | lane n => fin_cases n <;> rfl
  | bond b => fin_cases b <;> rfl

/-- A group's enable word is what the host reads at the address after its pending word (register map). -/
theorem readWord_enableAddr (s : State) (g : FlagGroup) :
    readWord s (regAt (pendingAddr g + 1)) = s.irq.enableWord g := by
  cases g with
  | global => rfl
  | lane n => fin_cases n <;> rfl
  | bond b => fin_cases b <;> rfl

/-- Two sets of up to 16 flags have one in common exactly when their words have. -/
theorem setWidth_and_ne_zero_iff {w : Nat} (hw : w ≤ 16) (p e : BitVec w) :
    p.setWidth 16 &&& e.setWidth 16 ≠ 0 ↔ p &&& e ≠ 0 := by
  rw [← BitVec.setWidth_and]
  refine not_congr ⟨fun h => ?_, fun h => by rw [h]; simp⟩
  have hback := congrArg (BitVec.setWidth w) h
  rwa [BitVec.setWidth_setWidth_of_le _ hw, BitVec.setWidth_eq, BitVec.ofNat_eq_ofNat, BitVec.setWidth_zero] at hback

/-- A group indicates exactly when its pending word and its enable word have a flag in common (R167). -/
theorem Irq.indication_iff (q : Irq) (g : FlagGroup) :
    q.indication g = true ↔ q.pendingWord g &&& q.enableWord g ≠ 0 := by
  cases g with
  | global => exact bne_iff_ne.trans (setWidth_and_ne_zero_iff (by decide) _ _).symm
  | lane n => exact bne_iff_ne.trans (setWidth_and_ne_zero_iff (by decide) _ _).symm
  | bond b => exact bne_iff_ne.trans (setWidth_and_ne_zero_iff (by decide) _ _).symm

/-! ## A clear -/

/-- The word that shows a set of flags shows it cleared of those written 1. -/
theorem setWidth_clearFlags {w : Nat} (flags : BitVec w) (v : Word) :
    (clearFlags flags v).setWidth 16 = flags.setWidth 16 &&& ~~~v := by
  ext i hi
  by_cases h : i < w
  · simp [clearFlags, h, hi]
  · simp [clearFlags, BitVec.getLsbD_of_ge flags i (Nat.le_of_not_lt h)]

/-- A clear takes the flags written 1 from its group's pending word (R165). -/
theorem clearPending_pendingWord_same (s : State) (g : FlagGroup) (v : Word) :
    (s.clearPending g v).irq.pendingWord g = s.irq.pendingWord g &&& ~~~v := by
  cases g with
  | global => exact setWidth_clearFlags _ v
  | lane n => simp [State.clearPending, Irq.pendingWord, setWidth_clearFlags]
  | bond b => simp [State.clearPending, Irq.pendingWord, setWidth_clearFlags]

/-- A clear leaves the pending words of the other groups (R165). -/
theorem clearPending_pendingWord_other {g g' : FlagGroup} (s : State) (v : Word) (h : g' ≠ g) :
    (s.clearPending g v).irq.pendingWord g' = s.irq.pendingWord g' := by
  cases g with
  | global =>
    cases g' with
    | global => exact absurd rfl h
    | lane _ => rfl
    | bond _ => rfl
  | lane n =>
    cases g' with
    | lane m => simp [State.clearPending, Irq.pendingWord, show m ≠ n from fun e => h (e ▸ rfl)]
    | global => rfl
    | bond _ => rfl
  | bond b =>
    cases g' with
    | bond c => simp [State.clearPending, Irq.pendingWord, show c ≠ b from fun e => h (e ▸ rfl)]
    | global => rfl
    | lane _ => rfl

/-- A clear leaves the enable words (R165). -/
@[simp] theorem clearPending_enableWord (s : State) (g g' : FlagGroup) (v : Word) :
    (s.clearPending g v).irq.enableWord g' = s.irq.enableWord g' := by
  cases g <;> rfl

/-- After a clear its group indicates exactly when an enabled flag of it is left pending. -/
theorem clearPending_indication_same (s : State) (g : FlagGroup) (v : Word) :
    (s.clearPending g v).irq.indication g = true ↔ s.irq.pendingWord g &&& ~~~v &&& s.irq.enableWord g ≠ 0 := by
  rw [Irq.indication_iff, clearPending_pendingWord_same, clearPending_enableWord]

/-- A clear leaves the indications of the other groups. -/
theorem clearPending_indication_other {g g' : FlagGroup} (s : State) (v : Word) (h : g' ≠ g) :
    (s.clearPending g v).irq.indication g' = true ↔ s.irq.indication g' = true := by
  rw [Irq.indication_iff, Irq.indication_iff, clearPending_pendingWord_other s v h, clearPending_enableWord]

/-! ## IRQ and the summary word -/

/-- The three kinds of group one by one. -/
theorem exists_flagGroup_iff {p : FlagGroup → Prop} :
    (∃ g, p g) ↔ p .global ∨ (∃ n, p (.lane n)) ∨ ∃ b, p (.bond b) := by
  constructor
  · rintro ⟨g, hg⟩
    cases g with
    | global => exact .inl hg
    | lane n => exact .inr (.inl ⟨n, hg⟩)
    | bond b => exact .inr (.inr ⟨b, hg⟩)
  · rintro (h | ⟨n, h⟩ | ⟨b, h⟩) <;> exact ⟨_, h⟩

/-- The summary word has a place for every group. -/
theorem mem_allGroups (g : FlagGroup) : g ∈ allGroups := by
  cases g with
  | global => decide
  | lane n => revert n; decide
  | bond b => revert b; decide

/-- IRQ is asserted exactly while some group indicates (R168). -/
theorem Irq.asserted_iff (q : Irq) : q.asserted = true ↔ ∃ g, q.indication g = true := by
  simp [Irq.asserted, mem_allGroups]

/-- Fields set down over a word leave 0 exactly when the word and every field set down are 0. -/
theorem foldl_or_eq_zero_iff (fields : List (Nat × Nat)) (w : Word) :
    fields.foldl (fun w f => w ||| BitVec.ofNat 16 f.1 <<< f.2) w = 0
      ↔ w = 0 ∧ ∀ f ∈ fields, BitVec.ofNat 16 f.1 <<< f.2 = 0 := by
  induction fields generalizing w with
  | nil => simp
  | cons f fs ih =>
    rw [List.foldl_cons, ih, List.forall_mem_cons, ← and_assoc]
    exact and_congr_left' BitVec.or_eq_zero_iff

/-- A packed word is 0 exactly when every field set down in it is. -/
theorem packWord_eq_zero_iff (fields : List (Nat × Nat)) :
    packWord fields = 0 ↔ ∀ f ∈ fields, BitVec.ofNat 16 f.1 <<< f.2 = 0 :=
  (foldl_or_eq_zero_iff fields 0).trans (and_iff_right rfl)

/-- A flag set down at a bit of a word is 0 exactly when the flag is down. -/
theorem bitNat_shift_eq_zero_iff (b : Bool) {i : Nat} (hi : i < 16) :
    BitVec.ofNat 16 (bitNat b) <<< i = 0 ↔ b = false := by
  have hbit : (BitVec.ofNat 16 (bitNat b) <<< i).getLsbD i = b := by
    rw [BitVec.getLsbD_shiftLeft, Nat.sub_self, getLsbD_ofNat_bitNat]
    simp [hi]
  constructor
  · intro h
    rw [← hbit, h]
    exact BitVec.getLsbD_zero
  · intro h
    simp [h, bitNat]

/-- The summary word is 0 exactly while no group indicates (R167). -/
theorem Irq.summary_eq_zero_iff (q : Irq) : q.summary = 0 ↔ ∀ g, q.indication g = false := by
  have hplace : ∀ x ∈ allGroups.zipIdx, x.2 < 16 := by decide
  have hgroup : ∀ g, ∃ i, (g, i) ∈ allGroups.zipIdx := fun g => by
    obtain ⟨i, hi⟩ := List.mem_iff_getElem?.1 (mem_allGroups g)
    exact ⟨i, List.mem_zipIdx_iff_getElem?.2 hi⟩
  rw [Irq.summary, packWord_eq_zero_iff, List.forall_mem_map]
  constructor
  · intro h g
    obtain ⟨i, hi⟩ := hgroup g
    exact (bitNat_shift_eq_zero_iff _ (hplace _ hi)).1 (h _ hi)
  · exact fun h x hx => (bitNat_shift_eq_zero_iff _ (hplace x hx)).2 (h x.1)

/-- After a clear IRQ is asserted exactly when another group indicates or the cleared group has an enabled flag left. -/
theorem clearPending_asserted_iff (s : State) (g : FlagGroup) (v : Word) :
    (s.clearPending g v).irq.asserted = true ↔
      (∃ g', g' ≠ g ∧ s.irq.indication g' = true) ∨ s.irq.pendingWord g &&& ~~~v &&& s.irq.enableWord g ≠ 0 := by
  rw [Irq.asserted_iff]
  constructor
  · rintro ⟨g', hg'⟩
    by_cases h : g' = g
    · subst h
      exact .inr ((clearPending_indication_same s g' v).1 hg')
    · exact .inl ⟨g', h, (clearPending_indication_other s v h).1 hg'⟩
  · rintro (⟨g', h, hg'⟩ | hleft)
    · exact ⟨g', (clearPending_indication_other s v h).2 hg'⟩
    · exact ⟨g, (clearPending_indication_same s g v).2 hleft⟩

/-! ## The obligation -/

/-- Settles O60: IRQ follows the indications of the groups, and of these a clear can change only that of its own group,
which is then whether an enabled flag of it is left. -/
theorem irqFollowsPendingAndEnabledFlags : Obligations.IrqFollowsPendingAndEnabledFlags := by
  refine ⟨fun q => ?_, fun q => ?_, fun g v s x htakes => ⟨(s.withTxn x).clearPending g v, ?_, ?_⟩⟩
  · rw [Irq.asserted_iff, exists_flagGroup_iff]
    simp only [Irq.indication, bne_iff_ne]
  · rw [Irq.asserted_iff, Ne, Irq.summary_eq_zero_iff, not_forall]
    simp only [Bool.not_eq_false]
  · exact congrArg Host.Outcome.next (writeWord_of_takes (fun t => t.clearPending g v) htakes)
  · rw [readWord_pendingAddr, readWord_enableAddr]
    exact clearPending_asserted_iff (s.withTxn x) g v

end Sys2Proof.Machine

/-! What the port's commands do: data words not taken, resets, snapshot requests, flags, selects, register writes,
transactions and read slots (R165 to R191). -/

namespace Sys2Proof.Machine

/-! ## Data words -/

/-- A data word that the port does not take has no effect (R181; log 8). -/
theorem dataWord_of_not_taken {s : State} {read : Bool} {a : Addr} (act : State → State)
    (h : s.port.txn.take read a = none) : dataWord read a act s = s := by
  simp only [dataWord, h]

/-- A read slot that the port takes samples once the port stands at the next transaction (R181; log 8). -/
theorem readSlotAt_of_takes {s : State} {a : Addr} {x : Txn} (h : s.Takes true a x) :
    readSlotAt a s = readSlot a (s.withTxn x) := by
  have htake : s.port.txn.take true a = some x := h
  simp only [readSlotAt, dataWord, htake]
  rfl

/-- Settles O59: the word of a command that is a data word acts through `dataWord` alone. -/
theorem dataWordsNotTakenHaveNoEffect : Obligations.DataWordsNotTakenHaveNoEffect := by
  have hnext : ∀ {s : State} {read : Bool} {a : Addr} (act : State → State), s.port.txn.take read a = none →
      (.next (dataWord read a act s) : Host.Outcome State Fault Refusal) = .next s :=
    fun act h => congrArg Host.Outcome.next (dataWord_of_not_taken act h)
  intro s
  refine ⟨fun b h => ⟨?_, ?_, ?_, ?_, ?_⟩, fun b off v h => ?_, fun n v late lateEntry h => ⟨?_, ?_⟩, fun n h => ?_,
    fun v h => ?_, fun n trigger count h => ⟨?_, ?_⟩, fun g v h => ?_, fun v h => ?_, fun a v h => ?_,
    fun a h => ⟨?_, ?_⟩⟩ <;> exact hnext _ h

/-! ## Resets -/

/-- A transaction that a soft reset ends waits for CSN to rise, unless CSN is high (R180, R189). -/
theorem Txn.cut_eq (x : Txn) : x.cut = if x = .idle then .idle else .ended := by
  cases x <;> rfl

/-- Settles O51: both resets put the reset values in place, and a data word that is taken leaves the fields that a soft
reset keeps. -/
theorem resetsReturnEverythingButTheQueue : Obligations.ResetsReturnEverythingButTheQueue := by
  refine ⟨fun csnLow s => rfl, fun v s x htakes hv => ?_⟩
  have hsoft : writeControl v (s.withTxn x) = softReset (s.withTxn x) := if_pos hv
  have hcut : (s.withTxn x).port.txn.cut = if x = .idle then .idle else .ended := Txn.cut_eq x
  refine congrArg Host.Outcome.next ((writeWord_of_takes _ htakes).trans (hsoft.trans ?_))
  simp only [softReset, hcut]
  rfl

/-! ## Snapshot requests -/

/-- Trigger code 3 is the one with no meaning (R173). -/
theorem snapTriggerOf_cases (code : BitVec 2) :
    (code = 3 ∧ snapTriggerOf code = none) ∨ (code = 0 ∧ snapTriggerOf code = some .next)
      ∨ (code = 1 ∧ snapTriggerOf code = some .atMark) ∨ (code = 2 ∧ snapTriggerOf code = some .atHead) := by
  revert code; decide

/-- A request with a trigger is judged by the snapshot unit (R173). -/
theorem snapRequest_of_trigger {trigger : BitVec 2} {tr : SnapTrigger} (n : Lane) (count : BitVec 4) (s : State)
    (h : snapTriggerOf trigger = some tr) :
    snapRequest n trigger count s = s.modSnap fun sn => sn.takeRequest n tr (count.toNat + 1) (s.lanes.get n).mode := by
  simp only [snapRequest, h]

theorem Snapshot.judge_of_busy {sn : Snapshot} (mode : LaneMode) (h : sn.state = .armed ∨ sn.state = .filling) :
    sn.judge mode = .busy := by
  rcases h with h | h <;> simp [Snapshot.judge, h]

theorem Snapshot.judge_of_free {sn : Snapshot} (mode : LaneMode) (ha : sn.state ≠ .armed) (hf : sn.state ≠ .filling) :
    sn.judge mode = if mode = .off then .laneOff else .accepted := by
  unfold Snapshot.judge; split <;> simp_all

/-- Settles O52: the trigger code says whether there is a request, and the request's verdict what is written. -/
theorem snapshotRequestIsJudged : Obligations.SnapshotRequestIsJudged := by
  intro n trigger count s x htakes
  have hexec : exec (.snapshotRequest n trigger count) s = .next (snapRequest n trigger count (s.withTxn x)) :=
    congrArg Host.Outcome.next (writeWord_of_takes _ htakes)
  have htrigger : trigger ≠ 3 → ∃ tr, snapTriggerOf trigger = some tr ∧ (trigger = 0 → tr = .next)
      ∧ (trigger = 1 → tr = .atMark) ∧ (trigger = 2 → tr = .atHead) := by
    intro h3
    rcases snapTriggerOf_cases trigger with h | h | h | h <;> obtain ⟨rfl, h⟩ := h
    · exact absurd rfl h3
    all_goals exact ⟨_, h, by decide, by decide, by decide⟩
  have hrequest : ∀ {tr : SnapTrigger} {r : Snapshot}, snapTriggerOf trigger = some tr →
      s.snap.takeRequest n tr (count.toNat + 1) (s.lanes.get n).mode = r →
      exec (.snapshotRequest n trigger count) s = .next { s.withTxn x with snap := r } := by
    rintro tr r htr rfl
    rw [hexec, snapRequest_of_trigger n count _ htr]
    rfl
  refine ⟨?_, fun h3 hbusy => ?_, fun h3 ha hf hoff => ?_, fun h3 ha hf hon => ?_⟩
  · rintro rfl
    exact hexec
  · obtain ⟨tr, htr, -⟩ := htrigger h3
    exact hrequest htr (by simp only [Snapshot.takeRequest, Snapshot.judge_of_busy _ hbusy])
  · obtain ⟨tr, htr, -⟩ := htrigger h3
    exact hrequest htr (by simp only [Snapshot.takeRequest, Snapshot.judge_of_free _ ha hf, if_pos hoff])
  · obtain ⟨tr, htr, hcode⟩ := htrigger h3
    refine ⟨tr, hrequest htr ?_, hcode⟩
    simp only [Snapshot.takeRequest, Snapshot.judge_of_free _ ha hf, if_neg hon]
    rfl

theorem Snapshot.busy_iff (sn : Snapshot) : sn.busy = true ↔ sn.state = .armed ∨ sn.state = .filling := by
  unfold Snapshot.busy; split <;> simp_all

/-- Settles O53: both end a request by the one abort, under the conditions of R177 and R178. -/
theorem snapshotCancelAndTimeoutAbort : Obligations.SnapshotCancelAndTimeoutAbort := by
  intro s
  refine ⟨fun ha hd => ?_, fun h => ?_, fun x htakes => ?_⟩
  · exact congrArg Host.Outcome.next (if_pos ⟨ha, hd⟩)
  · refine congrArg Host.Outcome.next (if_neg fun hboth => ?_)
    rcases h with h | h
    · exact h hboth.1
    · exact absurd hboth.2 (by simp [h])
  · have hexec : exec .snapshotCancel s = .next (snapCancel (s.withTxn x)) :=
      congrArg Host.Outcome.next (writeWord_of_takes _ htakes)
    rw [hexec]
    refine ⟨fun hbusy => ?_, fun ha hf => ?_⟩
    · exact congrArg Host.Outcome.next (if_pos ((Snapshot.busy_iff _).2 hbusy))
    · exact congrArg Host.Outcome.next (if_neg fun h => ((Snapshot.busy_iff _).1 h).elim ha hf)

/-! ## Flags, selects and register writes -/

/-- Settles O54: a clear changes pending words alone, and of these that of its group. -/
theorem pendingClearClearsWhatIsWrittenOne : Obligations.PendingClearClearsWhatIsWrittenOne := by
  intro g v s x htakes
  refine ⟨(s.withTxn x).clearPending g v, congrArg Host.Outcome.next (writeWord_of_takes _ htakes), ?_, ?_, fun g' h => ?_⟩
  · cases g <;> rfl
  · rw [readWord_pendingAddr, readWord_pendingAddr]
    exact clearPending_pendingWord_same (s.withTxn x) g v
  · rw [readWord_pendingAddr, readWord_pendingAddr]
    exact clearPending_pendingWord_other (s.withTxn x) v h

/-- A bit of a field of a word. -/
theorem getLsbD_wordField (v : Word) (lo len i : Nat) :
    (wordField v lo len).getLsbD i = (decide (i < len) && v.getLsbD (lo + i)) :=
  BitVec.getLsbD_extractLsb' lo len v i

/-- The select word packs a bond and an item as they stand in the written word (R191). -/
theorem selectWord_eq (v : Word) :
    packWord [((Fin.ofNat 4 (wordField v 0 2).toNat).val, 0), ((wordField v 2 3).toNat, 2)] = v &&& 0x001F := by
  have hbond : (Fin.ofNat 4 (wordField v 0 2).toNat).val = (wordField v 0 2).toNat :=
    Nat.mod_eq_of_lt (wordField v 0 2).isLt
  rw [hbond]
  ext i hi
  rcases (by omega : i = 0 ∨ i = 1 ∨ i = 2 ∨ i = 3 ∨ i = 4 ∨ 5 ≤ i) with rfl | rfl | rfl | rfl | rfl | h5
  case inr.inr.inr.inr.inr =>
    have hmask : (31#16).getLsbD i = false := by
      have : ∀ j : Fin 16, 5 ≤ j.val → (31#16).getLsbD j.val = false := by decide
      exact this ⟨i, hi⟩ h5
    simp [packWord, getLsbD_wordField, ← BitVec.getLsbD_eq_getElem, hmask, show ¬ i < 2 by omega, show ¬ i - 2 < 3 by omega]
  all_goals simp [packWord, getLsbD_wordField, ← BitVec.getLsbD_eq_getElem]

/-- Settles O55: an item code below 6 is stored with its bond, and the word reads back from the two fields. -/
theorem inspectionSelectStoresBondAndItem : Obligations.InspectionSelectStoresBondAndItem := by
  intro v s x htakes
  have hexec : exec (.inspectionSelect v) s = .next (writeSelect v (s.withTxn x)) :=
    congrArg Host.Outcome.next (writeWord_of_takes _ htakes)
  refine ⟨fun hitem => ?_, fun hitem => hexec.trans (congrArg Host.Outcome.next (if_pos hitem))⟩
  refine ⟨_, hexec.trans (congrArg Host.Outcome.next (if_neg (Nat.not_le.mpr hitem))), rfl, ?_, selectWord_eq v⟩
  exact Nat.mod_eq_of_lt (v.extractLsb' 0 2).isLt

theorem setWidth_eq_extractLsb' (v : Word) (w : Nat) : v.setWidth w = v.extractLsb' 0 w := by
  ext i; simp

/-- A write to a read-only or unmapped word raises PORT_ERROR and stores nothing (R182). -/
theorem hostWrite_of_readOnly {r : Reg} (v : Word) (s : State)
    (h : match r with
       | .global off => off.val ≠ 1 ∧ off.val ≠ 7 ∧ off.val ≠ 8 ∧ off.val ≠ 9
       | .lane _ off => off.val ≠ 0 ∧ off.val ≠ 1 ∧ off.val ≠ 8 ∧ off.val ≠ 9
       | .entry _ _ => True
       | .bond _ off => 11 ≤ off.val ∧ off.val ≠ 38 ∧ off.val ≠ 39
       | .snap off => off.val ≠ 0
       | .unmapped => True) : hostWrite r v s = s.raiseGlobal .portError := by
  cases r with
  | global off =>
    obtain ⟨h1, h7, h8, h9⟩ := h
    simp only [hostWrite]
  | lane n off =>
    obtain ⟨h0, h1, h8, h9⟩ := h
    simp only [hostWrite]
  | entry n off => rfl
  | bond b off =>
    obtain ⟨h11, h38, h39⟩ := h
    simp only [hostWrite, if_neg (show ¬ off.val < 10 by omega)]
    split
    · omega
    · contradiction
    · contradiction
    · rfl
  | snap off => exact if_neg h
  | unmapped => rfl

/-- Settles O56: the word at the address says what a write does. -/
theorem registerWriteStoresOrIsIgnored : Obligations.RegisterWriteStoresOrIsIgnored := by
  intro v s x
  have hexec : ∀ {a : Addr} {r : Reg}, regAt a = r → s.Takes false a x →
      exec (.registerWrite a v) s = .next (hostWrite r v (s.withTxn x)) := by
    rintro a r rfl htakes
    exact congrArg Host.Outcome.next (writeWord_of_takes _ htakes)
  refine ⟨fun h => ?_, fun n h => ?_, fun b h => ?_, fun h hv => ?_, fun a h hr => ?_⟩
  · rw [hexec (r := .global 8) rfl h, ← setWidth_eq_extractLsb']
    rfl
  · rw [hexec (r := .lane n 9) ((by decide : ∀ n, regAt (laneAddr n 9) = .lane n 9) n) h, ← setWidth_eq_extractLsb']
    rfl
  · rw [hexec (r := .bond b 39) ((by decide : ∀ b, regAt (bondAddr b 39) = .bond b 39) b) h, ← setWidth_eq_extractLsb']
    rfl
  · rw [hexec (r := .global 1) rfl h]
    exact congrArg Host.Outcome.next (if_neg (Bool.eq_false_iff.mp hv))
  · rw [hexec rfl h, hostWrite_of_readOnly v _ hr]

/-! ## Transactions and read slots -/

/-- Settles O57: the header's bits 13 to 9 judge it, and CSN rising ends whatever stands. -/
theorem transactionsOpenAndEnd : Obligations.TransactionsOpenAndEnd := by
  intro s
  refine ⟨fun h hgood => ?_, fun h hbad => ?_, rfl, fun bits hbits hopen => ?_, fun bits hended => ?_⟩
  · exact congrArg Host.Outcome.next (if_pos hgood)
  · exact congrArg Host.Outcome.next (if_neg hbad)
  · exact congrArg Host.Outcome.next (if_neg fun h => h.elim hbits hopen)
  · exact congrArg Host.Outcome.next (if_pos (.inr hended))

/-- Taking the data word does not show in the register window. -/
theorem readWord_withTxn (s : State) (x : Txn) (r : Reg) : readWord (s.withTxn x) r = readWord s r := by
  cases r <;> rfl

/-- Settles O58: a read slot by whether its word is mapped and its place in a held group. -/
theorem readSlotsSampleAndFillTheCopy : Obligations.ReadSlotsSampleAndFillTheCopy := by
  intro a s x htakes
  have hexec : exec (.holdingCopyFill a) s = .next (readSlot a (s.withTxn x)) :=
    congrArg Host.Outcome.next (readSlotAt_of_takes htakes)
  have hread : readWord (s.withTxn x) (regAt a) = readWord s (regAt a) := readWord_withTxn s x _
  refine ⟨rfl, fun g hheld hmapped => ?_, fun g k c w hheld hmapped hcopy hgroup hw => ?_, fun g k hheld hmapped hcopy => ?_,
    fun hheld hmapped => ?_, fun hunmapped => ?_⟩
  · have hall : g.regs.map (readWord (s.withTxn x)) = g.regs.map (readWord s) :=
      List.map_congr_left fun r _ => readWord_withTxn s x r
    simp only [hexec, readSlot, hmapped, if_true, hheld, hread, copyGroup, hall]
    rfl
  · have hcopied : (s.withTxn x).port.copied g (k + 1) = some w := by
      simp [HostPort.copied, State.withTxn, hcopy, hgroup, hw]
    simp only [hexec, readSlot, hmapped, if_true, hheld, State.modPort, hcopied, Option.getD_some]
    rfl
  · have hcopied : (s.withTxn x).port.copied g (k + 1) = none := by
      cases hc : s.port.copy with
      | none => simp [HostPort.copied, State.withTxn, hc]
      | some c => simp [HostPort.copied, State.withTxn, hc, hcopy c hc]
    simp only [hexec, readSlot, hmapped, if_true, hheld, State.modPort, hcopied, Option.getD_none, hread]
    rfl
  · simp only [hexec, readSlot, hmapped, if_true, hheld, hread]
    rfl
  · refine hexec.trans ?_
    simp only [readSlot, hunmapped, Bool.false_eq_true, if_false]
    rfl

end Sys2Proof.Machine

/-! The queue, the reset values, the current call word, and the commands of a lane and of the reference monitor that send
no notice (R12 to R36). -/

namespace Sys2Proof.Machine

/-- Settles O1: a step is the meaning of the front command by definition. -/
theorem stepRunsTheFrontCommand : Obligations.StepRunsTheFrontCommand := fun _ _ _ => rfl

/-! ## Right after reset -/

@[simp] theorem reset_lanes_get (n : Lane) : State.reset.lanes.get n = LaneRx.reset := Eight.get_rep _ n
@[simp] theorem reset_rolls_get (n : Lane) : State.reset.rolls.get n = RollCall.reset := Eight.get_rep _ n
@[simp] theorem reset_bufs_get (n : Lane) : State.reset.bufs.get n = Buffer.reset := Eight.get_rep _ n
@[simp] theorem reset_bonds_get (b : BondId) : State.reset.bonds.get b = Bond.reset := Four.get_rep _ b

/-- Settles O3: each family holds eight or four of the one reset value of its block. -/
theorem resetLeavesThePartAtItsResetValues : Obligations.ResetLeavesThePartAtItsResetValues := by
  have harrivals : ∀ i : Index, Bond.reset.rel.arrivals.get i = none := Eight.get_rep _
  have hoffsets : ∀ i : Index, Bond.reset.offsets.get i = none := Eight.get_rep _
  have hcall : ∀ b : BondId, State.reset.callLine b = List.replicate 20 false := fun _ => rfl
  unfold Obligations.ResetLeavesThePartAtItsResetValues
  simp only [reset_lanes_get, reset_rolls_get, reset_bufs_get, reset_bonds_get, harrivals, hoffsets, hcall]
  refine ⟨fun _ => rfl, fun _ => rfl, fun _ => ⟨rfl, rfl, rfl, rfl⟩, fun _ => rfl, fun _ => ?_, fun _ => ?_, rfl, rfl, rfl,
    rfl, rfl, rfl, fun n => ⟨Eight.get_rep _ n, Eight.get_rep _ n⟩, fun b => ⟨Four.get_rep _ b, Four.get_rep _ b⟩, rfl, rfl,
    rfl, rfl, rfl, rfl, rfl, rfl, rfl, rfl, fun _ => trivial, rfl⟩
  all_goals decide

/-- A bond at its reset values claims no lane. -/
theorem Bond.reset_claims (n : Lane) : Bond.reset.claims n = false := rfl

/-- A bond at its reset values meets what is kept of one bond. -/
theorem Bond.reset_ok : Bond.reset.Ok := by
  refine ⟨by decide, fun h => absurd h (by decide), fun h => absurd h (by decide), by decide, fun h => absurd rfl h,
    by decide, by decide, by decide, by decide, ⟨fun _ h => absurd h (by simp [Bond.reset, Reassembly.reset]), by decide⟩,
    by decide, by decide, fun _ h => absurd h (by simp [Bond.reset])⟩

/-- Settles O4: each part of the invariant, of the one reset value of its block. -/
theorem invariantHoldsAtReset : Obligations.InvariantHoldsAtReset where
  lanes n := by rw [reset_lanes_get]; decide
  search _ n := by rw [reset_lanes_get]; rfl
  monitor := by decide
  listening n := by rw [reset_lanes_get, reset_rolls_get]; decide
  entries n := by rw [reset_rolls_get]; decide
  claims b c n h := by rw [reset_bonds_get, Bond.reset_claims] at h; cases h
  spares b n h := by rw [reset_bonds_get] at h; exact absurd rfl h
  bonds b := by rw [reset_bonds_get]; exact Bond.reset_ok
  locked b h := by rw [reset_bonds_get] at h; simp [Bond.reset] at h
  losses b n h := by rw [reset_lanes_get] at h; cases h
  buffers n := by
    rw [reset_bufs_get]
    exact ⟨by decide, fun h => absurd h (by decide)⟩
  triggers b m h := by rw [reset_bonds_get] at h; cases h
  snap := by decide
  snapLane h := by cases h

/-! ## The current call word -/

/-- The bond_tag of the current call word is the bond's, in every state (R12). -/
theorem Bond.callWord_tag (bd : Bond) : bd.callWord.tag = bd.tag := by
  unfold Bond.callWord
  split <;> try rfl
  split <;> try rfl
  split <;> rfl

/-- Settles O31: the tag by the profile, the kind and the index by the state and the mend. -/
theorem currentCallWordFollowsTheBond : Obligations.CurrentCallWordFollowsTheBond := by
  intro bd
  refine ⟨fun p h => ?_, fun h => ?_, fun h => ?_, fun h => ?_, fun h => ?_, fun h => ?_, fun m h hm => ⟨?_, ?_, ?_, ?_⟩⟩
  · simp [Bond.callWord_tag, Bond.tag, h]
  · simp [Bond.callWord_tag, Bond.tag, h]
  · simp [Bond.callWord, h]
  · rcases h with h | h <;> simp [Bond.callWord, h]
  · simp [Bond.callWord, h]
  · rcases h with h | h <;> simp [Bond.callWord, h]
  · rcases hp : m.phase <;> rcases hd : m.method <;> simp [Bond.callWord, h, hm, hp, hd]
  · intro hp hd; simp [Bond.callWord, h, hm, hp, hd]
  · intro hp hd; simp [Bond.callWord, h, hm, hp, hd]
  · intro hp; simp [Bond.callWord, h, hm, hp]

/-! ## Call line slots -/

/-- Settles O30: a slot is one change of every bond, and its frame is a high cell, the word, parity, and a high and a low
cell. -/
theorem callWordSlotSendsTheCurrentWord : Obligations.CallWordSlotSendsTheCurrentWord := by
  refine ⟨fun s => ⟨beginSlot s, rfl, rfl, fun b => ⟨?_, ?_⟩⟩, fun w => ?_⟩
  · exact Four.get_mapIdx _ _ b
  · have hb : (beginSlot s).bonds.get b = (s.bonds.get b).sendWord := Four.get_mapIdx _ _ b
    have hline : (beginSlot s).callLine b = callFrame ((beginSlot s).bonds.get b).lastSent := rfl
    rw [hline, hb]
    rfl
  · have hlength : (wordBits w.bits).length = 16 := by simp [wordBits]
    refine ⟨by simp [callFrame, hlength], rfl, ?_, ?_, fun i => ?_, ?_⟩
    · simp [callFrame, hlength]
    · simp [callFrame, hlength]
    · have hi := i.isLt
      simp [callFrame, List.getElem?_append, Nat.add_comm 1, hi, wordBits]
    · have htake : ((callFrame w).drop 1).take 17 = wordBits w.bits ++ [oddParity (wordBits w.bits)] := by
        simp [callFrame, hlength, List.take_append]
      rw [htake]
      exact oddParity_odd _

/-! ## The reference monitor -/

/-- A reference that returns starts the acquisition timer of an ACQUIRING lane and leaves the others (R36). -/
theorem LaneRx.referenceRestored_eq (l : LaneRx) : l.referenceRestored =
    if l.mode = .acquiring then { l with acqTimer := .running 0 (l.acqTimeout.toNat * 10) } else l := by
  unfold LaneRx.referenceRestored
  split <;> simp_all [LaneRx.startAcq, Timer.start, LaneRx.acqLimit, Config.acqTimeoutStep]

/-- Settles O12: the three cases of an edge, by the monitor's state and count. -/
theorem refclkEdgeCountsAndDeclaresPresent : Obligations.RefclkEdgeCountsAndDeclaresPresent := by
  intro s
  have hexec : exec .refclkEdge s = .next (refclkEdge s) := rfl
  refine ⟨fun hp => ?_, fun ha hcount => ?_, fun ha hcount => ⟨_, hexec, ?_, fun n => ?_⟩⟩
  · exact hexec.trans (congrArg Host.Outcome.next (if_pos hp))
  · have hcount' : ¬ s.refmon.edges + 1 = Config.presentEdges := hcount
    simp only [hexec, refclkEdge, ha, Bool.false_eq_true, if_false, if_neg hcount']
  all_goals
    have hcount' : s.refmon.edges + 1 = Config.presentEdges := hcount
    simp only [refclkEdge, ha, Bool.false_eq_true, if_false, if_pos hcount']
  · rfl
  · simp only [State.raiseGlobal_lanes, Eight.get_mapIdx, LaneRx.referenceRestored_eq]

/-! ## Enable, acquisition and the counters of a lane -/

/-- Settles O21: such a lane does not classify. -/
theorem symbolOnALaneThatDoesNotClassifyIsLost : Obligations.SymbolOnALaneThatDoesNotClassifyIsLost := by
  intro n p h s hmode
  have hnot : ¬ (s.lanes.get n).mode.classifies = true := by
    rcases hmode with hmode | hmode <;> simp [hmode, LaneMode.classifies]
  exact congrArg Host.Outcome.next (if_neg hnot)

/-- A lane-down notice of a lane on which no request is in progress moves nothing (R177). -/
theorem snapLaneDown_of_not_busy {n : Lane} {s : State} (h : s.snap.busy = true → s.snap.lane ≠ some n) :
    snapLaneDown n s = s := if_neg fun hb => h hb.1 hb.2

/-- Settles O15: no request is in progress on an OFF lane, so that the command is one change of the lane. -/
theorem enableTakesAnOffLaneToAcquiring : Obligations.EnableTakesAnOffLaneToAcquiring := by
  intro n v s x htakes hsnap hoff hv
  have hfree : s.snap.busy = true → s.snap.lane ≠ some n := fun hb hn => hsnap hb n hn hoff
  have hexec : exec (.laneEnable n v) s
      = .next ((s.withTxn x).modLane n fun l => (l.configure v).enabled s.refmon.present) := by
    refine congrArg Host.Outcome.next ((writeWord_of_takes _ htakes).trans ?_)
    have hoff' : ((s.withTxn x).lanes.get n).mode = .off := hoff
    simp only [writeLaneConfig, wordBit, hv, if_true, hoff']
    refine Eq.trans (snapLaneDown_of_not_busy ?_) ?_
    · exact hfree
    · simp [State.modLane, State.withTxn]
  refine ⟨_, hexec, by simp [State.modLane, State.withTxn], ?_⟩
  rw [State.modLane_get, if_pos rfl]
  simp only [LaneRx.enabled, LaneRx.configure, LaneRx.startAcq, LaneRx.clearRuns, wordBit, hv, wordField,
    LaneRx.acqLimit, Config.acqTimeoutStep, Timer.start]
  rfl

/-- Settles O16: the command stores the word. -/
theorem enableOfAnEnabledLaneOnlyStores : Obligations.EnableOfAnEnabledLaneOnlyStores := by
  intro n v s x htakes hon hv
  refine congrArg Host.Outcome.next ((writeWord_of_takes _ htakes).trans ?_)
  have hon' : ((s.withTxn x).lanes.get n).mode ≠ .off := hon
  simp only [writeLaneConfig, wordBit, hv, if_true, if_neg hon', State.modLane, LaneRx.configure, wordField]
  rfl

/-- Settles O18: the expiry has its effect where the timer has counted to its limit. -/
theorem acquisitionTimeoutCountsAndRestarts : Obligations.AcquisitionTimeoutCountsAndRestarts := by
  intro n s
  refine ⟨fun hmode hdue => congrArg Host.Outcome.next (if_pos ⟨hmode, hdue⟩), fun h => ?_⟩
  refine congrArg Host.Outcome.next (if_neg fun hboth => ?_)
  rcases h with h | h
  · exact h hboth.1
  · exact Bool.eq_false_iff.mp h hboth.2

/-- Settles O19: the lock has its effect in ACQUIRING with a reference. -/
theorem frequencyLockTakesAcquiringToSeeking : Obligations.FrequencyLockTakesAcquiringToSeeking := by
  intro n s
  refine ⟨fun hmode hp => congrArg Host.Outcome.next (if_pos ⟨hmode, hp⟩), fun h => ?_⟩
  refine congrArg Host.Outcome.next (if_neg fun hboth => ?_)
  rcases h with h | h
  · exact h hboth.1
  · exact Bool.eq_false_iff.mp h hboth.2

/-- Settles O24: the port takes the word, and the command is one change of the lane and of its entry. -/
theorem laneClearCountersZeroesFiveCounters : Obligations.LaneClearCountersZeroesFiveCounters :=
  fun _ _ _ htakes => congrArg Host.Outcome.next (writeWord_of_takes _ htakes)

end Sys2Proof.Machine

/-! The configuration words of a bond: what a written word stores and how it reads back (R57, R58, R61, R62). -/

namespace Sys2Proof.Machine

/-- The positions of a field of `len` bits from position `lo` up. -/
def fieldMask (lo len : Nat) : Word := (BitVec.allOnes len).setWidth 16 <<< lo

theorem getLsbD_fieldMask (lo len i : Nat) (hi : i < 16) :
    (fieldMask lo len).getLsbD i = (decide (lo ≤ i) && decide (i - lo < len)) := by
  by_cases hlo : lo ≤ i
  · simp [fieldMask, hi, hlo, Nat.not_lt.mpr hlo]
  · simp [fieldMask, hi, hlo, Nat.lt_of_not_le hlo]

/-- A field set down where it was taken from shows the word at its positions and 0 elsewhere. -/
theorem field_shift_eq (v : Word) (lo len : Nat) (h : lo + len ≤ 16) :
    BitVec.ofNat 16 (wordField v lo len).toNat <<< lo = v &&& fieldMask lo len := by
  ext i hi
  rw [← BitVec.getLsbD_eq_getElem, ← BitVec.getLsbD_eq_getElem, BitVec.getLsbD_shiftLeft, BitVec.getLsbD_and,
    getLsbD_ofNat_field, getLsbD_fieldMask lo len i hi]
  by_cases hlo : lo ≤ i
  · by_cases hlen : i - lo < len <;>
      simp [hi, hlo, hlen, Nat.not_lt.mpr hlo, show i - lo < 16 by omega, show lo + (i - lo) = i by omega]
  · simp [hlo, Nat.lt_of_not_le hlo]

/-- A flag set down where it was taken from. -/
theorem flag_shift_eq (v : Word) (i : Nat) (h : i < 16) :
    BitVec.ofNat 16 (bitNat (wordBit v i)) <<< i = v &&& fieldMask i 1 := by
  rw [← field_shift_eq v i 1 (by omega)]
  congr 1
  ext j hj
  rw [← BitVec.getLsbD_eq_getElem, ← BitVec.getLsbD_eq_getElem, getLsbD_ofNat_bitNat, getLsbD_ofNat_field, wordBit]
  by_cases hj0 : j = 0 <;> simp [hj0]

/-- Words put together from parts of one word. -/
theorem and_or_and (v a b : Word) : (v &&& a) ||| (v &&& b) = v &&& (a ||| b) := BitVec.and_or_distrib_left.symm

theorem zero_or_word (v : Word) : 0 ||| v = v := BitVec.zero_or

theorem setWidth_wordField (v : Word) (len : Nat) (h : len ≤ 16) :
    (wordField v 0 len).setWidth 16 = v &&& fieldMask 0 len := by
  rw [← field_shift_eq v 0 len (by omega)]
  simp

/-- The lane that a field of three bits names has the field's number. -/
theorem ofNat_wordField_val (v : Word) (lo : Nat) :
    (Fin.ofNat 8 (wordField v lo 3).toNat).val = (wordField v lo 3).toNat :=
  Nat.mod_eq_of_lt (wordField v lo 3).isLt

/-- The spare of a written word 0 reads back where its flag is set (R57). -/
theorem spare_readBack (v : Word) :
    packWord (((wordField v 0 8).toNat, 0)
        :: optFields (if wordBit v 8 then some (Fin.ofNat 8 (wordField v 9 3).toNat) else none) 8 9 Fin.val)
      = v &&& (if v.getLsbD 8 then 0x0FFF else 0x00FF) := by
  have hmembers := field_shift_eq v 0 8 (by decide)
  have hflag := flag_shift_eq v 8 (by decide)
  by_cases h : v.getLsbD 8 = true
  · rw [wordBit, h] at hflag
    simp only [wordBit, h, if_true, optFields, packWord, List.foldl, zero_or_word, hmembers, ofNat_wordField_val,
      field_shift_eq v 9 3 (by decide)]
    rw [show BitVec.ofNat 16 1 <<< 8 = v &&& fieldMask 8 1 from hflag, and_or_and, and_or_and]
    rfl
  · simp only [wordBit, h, if_false, optFields, packWord, List.foldl, zero_or_word, hmembers, Bool.false_eq_true]
    rfl

/-- The positions of a configuration word that hold a field, by its offset and for word 0 the spare's flag (bond block). -/
def configMask (off : Fin 10) (v : Word) : Word :=
  match off.val with
  | 0 => if v.getLsbD 8 then 0x0FFF else 0x00FF
  | 1 => 0x0FFF | 2 => 0xFFF8 | 3 => 0xF87F | 4 => 0x0FFF | 5 => 0x03FF | 6 | 7 | 8 => 0xFFFF
  | _ => 0x000F

/-- A stored configuration word reads back as written, with the positions that hold no field 0 (R57, R58). -/
theorem BondConfig.word_store_same (cfg : BondConfig) (off : Fin 10) (v : Word) :
    (cfg.store off v).word off.val = v &&& configMask off v := by
  have hfield := field_shift_eq v
  have hflag := flag_shift_eq v
  have hzero : ∀ i : Nat, BitVec.ofNat 16 0 <<< i = (0 : Word) := fun i => by simp
  have hnone : v &&& 0 = 0 := BitVec.and_zero
  fin_cases off
  · exact spare_readBack v
  · have hchoice : ∀ {α : Type} [DecidableEq α] (i : Nat) {x y : α}, x ≠ y →
        ((if wordBit v i = true then x else y) == x) = wordBit v i := fun i => choice_beq (wordBit v i)
    show packWord _ = _
    simp only [BondConfig.store, hchoice 0 (show MatchMode.learn ≠ .exact by decide),
      hchoice 3 (show ReleaseMode.timed ≠ .free by decide), hchoice 4 (show EpochPolicy.retrain ≠ .report by decide),
      hchoice 6 (show TaintPolicy.fillRest ≠ .pass by decide), hchoice 7 (show FillMode.hold ≠ .value by decide), packWord, List.foldl,
      zero_or_word, hfield 8 4 (by decide), hflag 0 (by decide), hflag 1 (by decide), hflag 2 (by decide),
      hflag 3 (by decide), hflag 4 (by decide), hflag 5 (by decide), hflag 6 (by decide), hflag 7 (by decide), and_or_and]
    rfl
  · show packWord _ = _
    simp only [BondConfig.store, packWord, List.foldl, zero_or_word, hfield 7 9 (by decide), hfield 3 4 (by decide),
      and_or_and]
    rw [hzero, ← hnone, and_or_and]
    rfl
  · show packWord _ = _
    simp only [BondConfig.store, shapeOfWord, packWord, List.foldl, zero_or_word, hfield 11 5 (by decide),
      hfield 4 3 (by decide), hfield 0 4 (by decide), bitNat, Bool.false_eq_true, if_false]
    rw [hzero, hzero, ← hnone, and_or_and, and_or_and, and_or_and, and_or_and]
    rfl
  · exact setWidth_wordField v 12 (by decide)
  · exact setWidth_wordField v 10 (by decide)
  · exact BitVec.and_allOnes.symm
  · show packWord _ = _
    simp only [BondConfig.store, packWord, List.foldl, zero_or_word, hfield 0 8 (by decide), hfield 8 8 (by decide),
      and_or_and]
    rfl
  · show packWord _ = _
    simp only [BondConfig.store, packWord, List.foldl, zero_or_word, hfield 0 8 (by decide), hfield 8 8 (by decide),
      and_or_and]
    rfl
  · exact setWidth_wordField v 4 (by decide)

/-- A configuration word holds fields of its own alone (bond block, offsets 0 to 9). -/
theorem BondConfig.word_store_other (cfg : BondConfig) {off off' : Fin 10} (v : Word) (h : off' ≠ off) :
    (cfg.store off v).word off'.val = cfg.word off'.val := by
  fin_cases off <;> fin_cases off'
  any_goals exact absurd rfl h
  all_goals rfl

/-- Settles O32: the write changes the configuration in DISABLED, and the port and a flag in any other state. -/
theorem configurationWritesStoreOrAreRefused : Obligations.ConfigurationWritesStoreOrAreRefused := by
  intro b off v s x htakes
  have hexec : exec (.bondConfigWrite b off v) s = .next (writeBondConfig b off v (s.withTxn x)) :=
    congrArg Host.Outcome.next (writeWord_of_takes _ htakes)
  refine ⟨fun hoff => ?_, fun hon => hexec.trans (congrArg Host.Outcome.next (if_neg hon))⟩
  refine ⟨_, hexec.trans (congrArg Host.Outcome.next (if_pos hoff)), ?_, fun off' h => ?_, ?_⟩
  · simp [State.modBond, State.withTxn]
  · rw [State.modBond_get, if_pos rfl]
    exact BondConfig.word_store_other _ v h
  · rw [State.modBond_get, if_pos rfl]
    exact BondConfig.word_store_same _ off v

end Sys2Proof.Machine

/-! What every command keeps of the single blocks: the snapshot unit, the buffers, the announcement table, the line words,
the retrain counts, and the lane receivers with the reference monitor (R9, R20, R21, R35, R39, R96, R98, R100, R127,
R172). -/

namespace Sys2Proof.Machine

/-! ## The bounds of the blocks -/

/-- A lane receiver in one of its legal combinations under the reference (R17 to R27, R35). -/
structure LaneRx.Legal (l : LaneRx) (present : Bool) : Prop where
  counts : l.Counts
  timer : l.TimerFollows present
  search : present = false → l.mode.classifies = false

/-- Every lane legal, and the monitor's count with its state. -/
def State.ReceiversOk (s : State) : Prop := (∀ n, (s.lanes.get n).Legal s.refmon.present) ∧ s.MonitorOk

theorem State.receiversOk_iff (s : State) :
    s.ReceiversOk ↔ s.LanesOk ∧ s.NoSearchWithoutReference ∧ s.MonitorOk := by
  constructor
  · rintro ⟨hlanes, hmonitor⟩
    exact ⟨fun n => ⟨(hlanes n).counts, (hlanes n).timer⟩, fun hp n => (hlanes n).search hp, hmonitor⟩
  · rintro ⟨hlanes, hsearch, hmonitor⟩
    exact ⟨fun n => ⟨(hlanes n).1, (hlanes n).2, fun hp => hsearch hp n⟩, hmonitor⟩

/-- What an operation keeps of each block by itself. -/
structure BlocksKept (s t : State) : Prop where
  snap : s.snap.Ok → t.snap.Ok
  depth : (∀ n, (s.bufs.get n).DepthOk) → ∀ n, (t.bufs.get n).DepthOk
  entries : s.EntriesOk → t.EntriesOk
  line : (∀ b, (s.bonds.get b).LineOk) → ∀ b, (t.bonds.get b).LineOk
  counts : (∀ b, (s.bonds.get b).CountsOk) → ∀ b, (t.bonds.get b).CountsOk
  receivers : s.ReceiversOk → t.ReceiversOk

namespace BlocksKept

theorem refl (s : State) : BlocksKept s s := ⟨id, id, id, id, id, id⟩

theorem trans {s t u : State} (h : BlocksKept s t) (k : BlocksKept t u) : BlocksKept s u where
  snap x := k.snap (h.snap x)
  depth x := k.depth (h.depth x)
  entries x := k.entries (h.entries x)
  line x := k.line (h.line x)
  counts x := k.counts (h.counts x)
  receivers x := k.receivers (h.receivers x)

/-- An operation repeated along a list. -/
theorem foldl {α : Type} {f : State → α → State} (h : ∀ s a, BlocksKept s (f s a)) (l : List α) (s : State) :
    BlocksKept s (l.foldl f s) := by
  induction l generalizing s with
  | nil => exact .refl s
  | cons a rest ih => exact (h s a).trans (ih _)

end BlocksKept

/-! ## Operations on one block -/

/-- A change outside the blocks: flags, port, counter, queue, slot schedule. -/
theorem blocksKept_of_eq {s t : State} (hlanes : t.lanes = s.lanes) (hrolls : t.rolls = s.rolls) (hbufs : t.bufs = s.bufs)
    (hbonds : t.bonds = s.bonds) (hrefmon : t.refmon = s.refmon) (hsnap : t.snap = s.snap) : BlocksKept s t where
  snap := by rw [hsnap]; exact id
  depth := by rw [hbufs]; exact id
  entries := by unfold State.EntriesOk; rw [hrolls]; exact id
  line := by rw [hbonds]; exact id
  counts := by rw [hbonds]; exact id
  receivers := by unfold State.ReceiversOk State.MonitorOk; rw [hlanes, hrefmon]; exact id

theorem raiseGlobal_kept (s : State) (f : GlobalFlag) : BlocksKept s (s.raiseGlobal f) :=
  blocksKept_of_eq rfl rfl rfl rfl rfl rfl

theorem raiseLane_kept (s : State) (n : Lane) (f : LaneFlag) : BlocksKept s (s.raiseLane n f) :=
  blocksKept_of_eq rfl rfl rfl rfl rfl rfl

theorem raiseBond_kept (s : State) (b : BondId) (f : BondFlag) : BlocksKept s (s.raiseBond b f) :=
  blocksKept_of_eq rfl rfl rfl rfl rfl rfl

theorem modPort_kept (s : State) (f : HostPort → HostPort) : BlocksKept s (s.modPort f) :=
  blocksKept_of_eq rfl rfl rfl rfl rfl rfl

/-- A change of the lanes and the monitor alone. -/
theorem lanes_kept {s t : State} (hrolls : t.rolls = s.rolls) (hbufs : t.bufs = s.bufs) (hbonds : t.bonds = s.bonds)
    (hsnap : t.snap = s.snap) (h : s.ReceiversOk → t.ReceiversOk) : BlocksKept s t where
  snap := by rw [hsnap]; exact id
  depth := by rw [hbufs]; exact id
  entries := by unfold State.EntriesOk; rw [hrolls]; exact id
  line := by rw [hbonds]; exact id
  counts := by rw [hbonds]; exact id
  receivers := h

theorem modLane_kept {s : State} {n : Lane} {f : LaneRx → LaneRx}
    (h : (s.lanes.get n).Legal s.refmon.present → (f (s.lanes.get n)).Legal s.refmon.present) :
    BlocksKept s (s.modLane n f) :=
  lanes_kept rfl rfl rfl rfl fun ⟨hlanes, hmonitor⟩ => ⟨fun m => by
    rw [State.modLane_get]
    split
    · exact h (hlanes n)
    · exact hlanes m, hmonitor⟩

theorem modRoll_kept {s : State} {n : Lane} {f : RollCall → RollCall}
    (hr : (s.rolls.get n).entry.RepeatsOk → (f (s.rolls.get n)).entry.RepeatsOk)
    (hrec : (s.rolls.get n).entry.RecordOk → (f (s.rolls.get n)).entry.RecordOk) : BlocksKept s (s.modRoll n f) :=
  { BlocksKept.refl s with
    entries := fun h m => by
      rw [State.modRoll_get]
      split
      · exact ⟨hr (h n).1, hrec (h n).2⟩
      · exact h m }

theorem modBond_kept {s : State} {b : BondId} {f : Bond → Bond}
    (hline : (s.bonds.get b).LineOk → (f (s.bonds.get b)).LineOk)
    (hcounts : (s.bonds.get b).CountsOk → (f (s.bonds.get b)).CountsOk) : BlocksKept s (s.modBond b f) :=
  { BlocksKept.refl s with
    line := fun h c => by
      rw [State.modBond_get]
      split
      · exact hline (h b)
      · exact h c
    counts := fun h c => by
      rw [State.modBond_get]
      split
      · exact hcounts (h b)
      · exact h c }

/-- A change of a bond outside its line word, its counts, its state and its configuration. -/
theorem modBond_kept_of_eq {s : State} {b : BondId} {f : Bond → Bond}
    (hline : (f (s.bonds.get b)).LineOk = (s.bonds.get b).LineOk)
    (hcounts : (f (s.bonds.get b)).CountsOk = (s.bonds.get b).CountsOk) : BlocksKept s (s.modBond b f) :=
  modBond_kept (by rw [hline]; exact id) (by rw [hcounts]; exact id)

theorem modSnap_kept {s : State} {f : Snapshot → Snapshot} (h : s.snap.Ok → (f s.snap).Ok) :
    BlocksKept s (s.modSnap f) := { BlocksKept.refl s with snap := h }

/-- A bond's clear of an entry leaves it EMPTY with a well-formed record (R51). -/
theorem Entry.clear_ok (e : Entry) : e.clear.RepeatsOk ∧ e.clear.RecordOk := by
  have hzero : Record.zero.label.length ≤ 6 ∧ Record.zero.logicalIndex.toNat < Record.zero.common.shape.lanes := by decide
  refine ⟨⟨fun _ => rfl, fun h => ?_, fun h => ?_⟩, hzero⟩ <;> cases h

theorem LanesStay.kept {s t : State} (h : LanesStay s t) : BlocksKept s t where
  snap := by rw [h.snap]; exact id
  depth := h.depth
  entries he n := by
    rcases h.rolls n with hn | hn <;> rw [hn]
    · exact he n
    · exact Entry.clear_ok _
  line hl c := h.line c (hl c)
  counts := h.counts
  receivers := by unfold State.ReceiversOk State.MonitorOk; rw [h.lanes, h.time.refmon]; exact id

/-! ## The snapshot unit -/

theorem Snapshot.takeRequest_ok {sn : Snapshot} (n : Lane) (tr : SnapTrigger) (count : BitVec 4) (mode : LaneMode)
    (h : sn.Ok) : (sn.takeRequest n tr (count.toNat + 1) mode).Ok := by
  have hcount := count.isLt
  unfold Snapshot.takeRequest
  split
  · exact ⟨by simp, by simp; omega, by simp [Timer.start, Timer.isRunning], by simp, by simp, by simp, by simp⟩
  · exact h
  · exact h

theorem snapRequest_kept (n : Lane) (trigger : BitVec 2) (count : BitVec 4) (s : State) :
    BlocksKept s (snapRequest n trigger count s) := by
  unfold snapRequest
  split
  · exact modSnap_kept (Snapshot.takeRequest_ok n _ count _)
  · exact raiseGlobal_kept s _

theorem Snapshot.abortWith_ok {sn : Snapshot} (cause : AbortCause) (h : sn.Ok) : (sn.abortWith cause).Ok := by
  obtain ⟨h16, hcount, -⟩ := h
  exact ⟨h16, hcount, by simp [Snapshot.abortWith, Timer.isRunning], by simp [Snapshot.abortWith],
    by simp [Snapshot.abortWith, Snapshot.busy], by simp [Snapshot.abortWith], by simp [Snapshot.abortWith]⟩

theorem abortSnapshot_kept (cause : AbortCause) (s : State) : BlocksKept s (abortSnapshot cause s) :=
  (modSnap_kept (Snapshot.abortWith_ok cause)).trans (raiseGlobal_kept _ _)

theorem snapCancel_kept (s : State) : BlocksKept s (snapCancel s) := by
  unfold snapCancel
  split
  · exact abortSnapshot_kept _ s
  · exact .refl s

theorem snapLaneDown_kept (n : Lane) (s : State) : BlocksKept s (snapLaneDown n s) := by
  unfold snapLaneDown
  split
  · exact abortSnapshot_kept _ s
  · exact .refl s

/-- A unit that records a symbol: its request is in progress with room for one more entry, and its timer does not run. -/
theorem recordSymbol_kept (cls : SymbolClass) {s : State} {n : Lane} {tr : SnapTrigger} {c : Nat}
    (hlane : s.snap.lane = some n) (htrigger : s.snap.trigger = some tr) (hcount : s.snap.count = some c)
    (hroom : s.snap.entries.length < c) (h16 : c ≤ 16) (htimer : s.snap.timer.isRunning = false)
    (habort : s.snap.abort = none) : (recordSymbol cls s).snap.Ok := by
  unfold recordSymbol
  dsimp only
  split
  · refine ⟨?_, ?_, ?_, ?_, ?_, ?_, ?_⟩ <;> simp [hcount, htimer, habort, Snapshot.busy] <;> omega
  · rename_i hmore
    simp only [hcount, Option.getD_some, List.length_append, List.length_cons, List.length_nil, Nat.not_le] at hmore
    refine ⟨?_, ?_, ?_, ?_, ?_, ?_, ?_⟩ <;> simp [hcount, htimer, habort, hlane, htrigger] <;> omega

theorem SnapOnly.kept {s t : State} (h : SnapOnly s t) (hsnap : s.snap.Ok → t.snap.Ok) : BlocksKept s t where
  snap := hsnap
  depth := by rw [h.rest]; exact id
  entries := by rw [h.rest]; exact id
  line := by rw [h.rest]; exact id
  counts := by rw [h.rest]; exact id
  receivers := by rw [h.rest]; exact id

theorem snapTake_kept (n : Lane) (cls : SymbolClass) (s : State) : BlocksKept s (snapTake n cls s) := by
  have hsnap : s.snap.Ok → (snapTake n cls s).snap.Ok := by
    intro h
    obtain ⟨h16, hcount, htimer, harmed, hbusy, hfilling, habort⟩ := id h
    have hnone : s.snap.busy = true → s.snap.abort = none := by
      intro hb
      rcases (Snapshot.busy_iff _).1 hb with hst | hst <;> simpa [hst] using habort
    have hfull : s.snap.busy = true → ∃ tr c, s.snap.trigger = some tr ∧ s.snap.count = some c := by
      intro hb
      obtain ⟨-, htr, hc⟩ := hbusy hb
      obtain ⟨tr, htr⟩ := Option.isSome_iff_exists.mp htr
      obtain ⟨c, hc⟩ := Option.isSome_iff_exists.mp hc
      exact ⟨tr, c, htr, hc⟩
    unfold snapTake
    split
    · rename_i hlane
      split
      · rename_i tr hst htr
        have hb := (Snapshot.busy_iff _).2 (.inl hst)
        obtain ⟨_, c, _, hc⟩ := hfull hb
        obtain ⟨h1, hc16, -⟩ := hcount c hc
        have hroom : s.snap.entries.length < c := by rw [harmed hst]; exact h1
        split
        · exact recordSymbol_kept cls hlane htr hc hroom hc16 rfl (hnone hb)
        · exact h
      · rename_i hst
        have hb := (Snapshot.busy_iff _).2 (.inr hst)
        obtain ⟨tr, c, htr, hc⟩ := hfull hb
        exact recordSymbol_kept cls hlane htr hc (hfilling hst c hc) (hcount c hc).2.1
          (by simpa [hst] using htimer) (hnone hb)
      · exact h
    · exact h
  exact (snapTake_snapOnly n cls s).kept hsnap

theorem armingExpire_kept (s : State) : BlocksKept s (armingExpire s) := by
  unfold armingExpire
  split
  · exact abortSnapshot_kept _ s
  · exact .refl s

theorem writeSnapControl_kept (v : Word) (s : State) : BlocksKept s (writeSnapControl v s) := by
  unfold writeSnapControl
  split
  · exact snapRequest_kept _ _ _ s
  · exact snapCancel_kept s
  · exact raiseGlobal_kept s _

/-! ## The roll-call unit -/

/-- A record judged valid is well formed (R9). -/
theorem judgeRecord_valid {rec : OpenRecord} {r : Record} (h : judgeRecord rec = .valid r) :
    r.label.length ≤ 6 ∧ r.logicalIndex.toNat < r.common.shape.lanes := by
  unfold judgeRecord at h
  dsimp only at h
  split at h
  · cases h
  · split at h
    · cases h
    · rename_i hlabel
      split at h
      · cases h
      · rename_i hindex
        cases h
        refine ⟨?_, Nat.lt_of_not_le hindex⟩
        have hseven : labelLength (rec.words.getD 1 0) < 8 := (wordField _ 8 3).isLt
        have htake := List.length_take_le (labelLength (rec.words.getD 1 0)) (rec.words.drop 2)
        simp only [recordOfWords]
        omega

/-- The outcome of a record that ends is malformed or one judged (R41, R43). -/
theorem assemble_outcome {r : RollCall} {cls : SymbolClass} {o : RecordOutcome} (h : (assemble r cls).2 = some o) :
    o = .malformed ∨ ∃ rec, o = judgeRecord rec := by
  unfold assemble at h
  split at h
  · split at h
    · dsimp only at h
      split at h
      · exact .inr ⟨_, (Option.some.inj h).symm⟩
      · cases h
    all_goals exact .inl (Option.some.inj h).symm
  · split at h <;> cases h

theorem Entry.takeValid_ok {e : Entry} {r : Record} (now : Word32) (he : e.RepeatsOk)
    (hr : r.label.length ≤ 6 ∧ r.logicalIndex.toNat < r.common.shape.lanes) (hrec : e.RecordOk) :
    (e.takeValid r now).RepeatsOk ∧ (e.takeValid r now).RecordOk := by
  obtain ⟨hempty, hseen, hconfirmed⟩ := he
  unfold Entry.takeValid
  split
  · rename_i hmatch
    obtain ⟨hstatus, -⟩ := (Entry.matches_iff e r).1 hmatch
    refine ⟨?_, hrec⟩
    simp only [Config.confirmCount] at hseen hconfirmed ⊢
    rcases hstatus with hs | hs
    · obtain ⟨h1, h3⟩ := hseen hs
      rcases (by omega : e.repeats = 1 ∨ e.repeats = 2) with h | h <;> simp [h, Entry.RepeatsOk, Config.confirmCount]
    · have h := hconfirmed hs
      simp [h, Entry.RepeatsOk, Config.confirmCount]
  · exact ⟨by simp [Entry.RepeatsOk, Config.confirmCount], hr⟩

theorem takeOutcome_kept (n : Lane) {o : RecordOutcome} (late : Bool) (s : State)
    (ho : o = .malformed ∨ ∃ rec, o = judgeRecord rec) : BlocksKept s (takeOutcome n o late s) := by
  have hroll : BlocksKept s (s.modRoll n fun r => { r with entry := r.entry.takeOutcome o s.timestamp }) := by
    cases o with
    | valid r =>
      have hr : r.label.length ≤ 6 ∧ r.logicalIndex.toNat < r.common.shape.lanes := by
        rcases ho with ho | ⟨rec, ho⟩
        · cases ho
        · exact judgeRecord_valid ho.symm
      exact { BlocksKept.refl s with
        entries := fun h m => by
          rw [State.modRoll_get]
          split
          · exact Entry.takeValid_ok s.timestamp (h n).1 hr (h n).2
          · exact h m }
    | checkFailure => exact modRoll_kept id id
    | malformed => exact modRoll_kept id id
  have hflag : ∀ (t : State) (f : Option LaneFlag), BlocksKept t (t.raiseLaneFlag n f) := by
    intro t f
    cases f
    · exact .refl t
    · exact raiseLane_kept t n _
  exact (hroll.trans (hflag _ _)).trans (entryNotice_lanesStay n _ late _).kept

theorem rollTake_kept (n : Lane) (cls : SymbolClass) (late : Bool) (s : State) :
    BlocksKept s (rollTake n cls late s) := by
  unfold rollTake
  dsimp only
  split
  · rename_i o ho
    exact (modRoll_kept id id).trans (takeOutcome_kept n late _ (assemble_outcome ho))
  · exact modRoll_kept id id

theorem Entry.lose_repeatsOk {e : Entry} (h : e.RepeatsOk) : e.lose.RepeatsOk := by
  unfold Entry.lose
  split
  · simp [Entry.RepeatsOk]
  · simp [Entry.RepeatsOk]
  · exact h
  · exact h

theorem Entry.lose_record (e : Entry) : e.lose.record = e.record := by
  unfold Entry.lose; split <;> rfl

theorem rollLockLost_kept (n : Lane) (late : Bool) (s : State) : BlocksKept s (rollLockLost n late s) :=
  (modRoll_kept Entry.lose_repeatsOk fun h => by
    simpa [Entry.RecordOk, RollCall.lockLost, Entry.lose_record] using h).trans (entryNotice_lanesStay n _ late _).kept

/-! ## A lane's notices -/

theorem noticeLockLost_kept (n : Lane) (cause : LossCause) (late lateEntry : Bool) (s : State) :
    BlocksKept s (noticeLockLost n cause late lateEntry s) :=
  (rollLockLost_kept n lateEntry s).trans (tellOwner_lanesStay n _ late _).kept

theorem noticeLockGained_kept (n : Lane) (late : Bool) (s : State) : BlocksKept s (noticeLockGained n late s) :=
  (modRoll_kept id id).trans (tellOwner_lanesStay n _ late _).kept

theorem lossNotices_kept (n : Lane) (was : LaneMode) (cause : LossCause) (late lateEntry : Bool) (s : State) :
    BlocksKept s (lossNotices n was cause late lateEntry s) := by
  unfold lossNotices
  refine BlocksKept.trans ?_ (snapLaneDown_kept n _)
  split
  · exact noticeLockLost_kept n cause late lateEntry s
  · exact .refl s

theorem raiseLockLost_kept (n : Lane) (was : LaneMode) (s : State) : BlocksKept s (raiseLockLost n was s) := by
  unfold raiseLockLost
  split
  · exact raiseLane_kept s n _
  · exact .refl s

theorem bufLaneOff_lanesStay (n : Lane) (s : State) : LanesStay s (bufLaneOff n s) :=
  (modBuf_lanesStay n fun _ => Buffer.depthOk_clear _).trans (withdraw_lanesStay n _)

end Sys2Proof.Machine

/-! What every command keeps of the single blocks, continued: the lane receivers, the bonds' commands, the read sides, the
timebase; and the seven commands' families together in one lemma over `exec` and `step`. -/

namespace Sys2Proof.Machine

/-! ## Lane receivers -/

section Fields

variable (l : LaneRx) (cls : SymbolClass) (v : Word)

@[simp] theorem LaneRx.countLoss_enable : l.countLoss.enable = l.enable := by unfold LaneRx.countLoss; split <;> rfl
@[simp] theorem LaneRx.countLoss_acqTimeout : l.countLoss.acqTimeout = l.acqTimeout := by
  unfold LaneRx.countLoss; split <;> rfl
@[simp] theorem LaneRx.countLoss_acqTimer : l.countLoss.acqTimer = l.acqTimer := by
  unfold LaneRx.countLoss; split <;> rfl

@[simp] theorem LaneRx.strike_enable : (l.strike cls).enable = l.enable := by
  unfold LaneRx.strike
  split
  · split <;> rfl
  · rfl
@[simp] theorem LaneRx.strike_acqTimeout : (l.strike cls).acqTimeout = l.acqTimeout := by
  unfold LaneRx.strike
  split
  · split <;> rfl
  · rfl
@[simp] theorem LaneRx.strike_acqTimer : (l.strike cls).acqTimer = l.acqTimer := by
  unfold LaneRx.strike
  split
  · split <;> rfl
  · rfl

/-- A timeout of 0 is stored as 1 (R17). -/
theorem LaneRx.configure_acqTimeout_ne_zero : (l.configure v).acqTimeout ≠ 0 := by
  simp only [LaneRx.configure]
  split
  · decide
  · assumption

end Fields

/-- The counts of a lane whose runs and strikes are 0. -/
theorem LaneRx.Counts.of_zero {q : LaneRx} (henable : q.enable = true ↔ q.mode ≠ .off) (htimeout : q.acqTimeout ≠ 0)
    (hmode : q.mode ≠ .locked) (hlock : q.lockRun = 0) (hinv : q.invRun = 0) (hstrikes : q.strikes = 0)
    (hrelief : q.relief = 0) : q.Counts := by
  refine ⟨henable, htimeout, ?_, ?_, ?_, ?_, ?_⟩
  · rw [hlock]; decide
  · simp [hlock, hmode, Config.lockRunLength]
  · rw [hinv]; decide
  · rw [hstrikes]; decide
  · rw [hrelief]; decide

namespace LaneRx.Legal

variable {l : LaneRx} {present : Bool}

theorem invRun_zero_lt : 0 < Config.invertedRunLength := by decide

/-- A legal lane that is not LOCKED has a lock run below 32 (R23, R26). -/
theorem lockRun_lt (h : l.Legal present) (hmode : l.mode ≠ .locked) : l.lockRun < 32 := by
  obtain ⟨-, -, hle, hlocked, -⟩ := h.counts
  have hne : l.lockRun ≠ 32 := fun e => hmode (hlocked.2 e)
  simp only [Config.lockRunLength] at hle
  omega

/-- A lane that takes another word while it stays enabled or OFF (R17, R19, R29). -/
theorem configure (h : l.Legal present) (v : Word) (henable : wordBit v 0 = true ↔ l.mode ≠ .off) :
    (l.configure v).Legal present := by
  obtain ⟨⟨-, -, hrun, hlocked, hinv, hstrikes, hrelief⟩, htimer, hsearch⟩ := h
  refine ⟨⟨henable, l.configure_acqTimeout_ne_zero v, hrun, hlocked, ?_, hstrikes, hrelief⟩, htimer, hsearch⟩
  simp only [LaneRx.configure]
  split
  · exact hinv
  · decide

/-- What an entry to ACQUIRING makes of the timer (R19, R28, R35). -/
theorem startAcq_timer (l : LaneRx) (present : Bool) (hmode : l.mode = .acquiring) :
    (l.startAcq present).TimerFollows present := by
  cases present <;> simp [LaneRx.TimerFollows, LaneRx.startAcq, hmode, Timer.start, Timer.isRunning]

/-- A lane that searches or is LOCKED goes to ACQUIRING, under the reference as it then stands (R28, R35). -/
theorem toAcquiring (h : l.Legal present) (cause : LossCause) (present' : Bool) (hmode : l.mode ≠ .off) :
    (l.toAcquiring cause present').Legal present' := by
  obtain ⟨henable, htimeout, -⟩ := h.counts
  refine ⟨.of_zero ?_ ?_ nofun rfl rfl rfl rfl, startAcq_timer _ present' rfl, fun _ => rfl⟩
  · simp [LaneRx.toAcquiring, LaneRx.startAcq, LaneRx.clearRuns, henable.2 hmode]
  · simpa [LaneRx.toAcquiring, LaneRx.startAcq, LaneRx.clearRuns] using htimeout

/-- A lane in OFF with the enable written goes to ACQUIRING (R19). -/
theorem enabled (v : Word) (l : LaneRx) (present : Bool) (henable : wordBit v 0 = true) :
    ((l.configure v).enabled present).Legal present :=
  ⟨.of_zero ⟨fun _ => nofun, fun _ => henable⟩ (l.configure_acqTimeout_ne_zero v) nofun rfl rfl rfl rfl,
    startAcq_timer _ present rfl, fun _ => rfl⟩

/-- A lane with the disable written goes to OFF (R29). -/
theorem toOff (v : Word) (l : LaneRx) (present : Bool) (henable : wordBit v 0 = false) :
    ((l.configure v).toOff).Legal present := by
  have htimeout := l.configure_acqTimeout_ne_zero v
  have henable' : (l.configure v).enable = false := henable
  refine ⟨.of_zero ?_ ?_ nofun rfl rfl rfl rfl, ?_, fun _ => rfl⟩
  · simp [LaneRx.toOff, LaneRx.clearRuns, henable']
  · simpa [LaneRx.toOff, LaneRx.clearRuns] using htimeout
  · simp [LaneRx.TimerFollows, LaneRx.toOff]

theorem acqExpired (h : l.Legal true) (hmode : l.mode = .acquiring) (count : Word) :
    ({ l with acqFailures := count, acqTimer := .start l.acqLimit } : LaneRx).Legal true :=
  ⟨h.counts, by simp [LaneRx.TimerFollows, hmode, Timer.start, Timer.isRunning], h.search⟩

theorem frequencyLock (h : l.Legal true) (hmode : l.mode = .acquiring) :
    ({ l with mode := .seeking, acqTimer := .stopped, lockRun := 0, invRun := 0 } : LaneRx).Legal true := by
  obtain ⟨henable, htimeout, -, -, -, hstrikes, hrelief⟩ := h.counts
  refine ⟨⟨?_, htimeout, Nat.zero_le _, by simp [Config.lockRunLength], invRun_zero_lt, hstrikes, hrelief⟩,
    by simp [LaneRx.TimerFollows], fun hp => by cases hp⟩
  simpa [hmode] using henable

/-- A lane that searches has its reference, and no timer. -/
theorem of_classifies (h : l.Legal present) (hc : l.mode.classifies = true) :
    present = true ∧ l.acqTimer = .stopped ∧ l.enable = true := by
  refine ⟨?_, ?_, h.counts.1.2 fun hoff => by simp [hoff, LaneMode.classifies] at hc⟩
  · cases present with
    | true => rfl
    | false => exact absurd (h.search rfl) (by simp [hc])
  · by_contra hne
    have := h.timer.1.2 hne
    simp [this, LaneMode.classifies] at hc

/-- A symbol in SEEKING (R23, R24). -/
theorem seek (h : l.Legal present) (cls : SymbolClass) (hmode : l.mode = .seeking) : (l.seek cls).Legal present := by
  obtain ⟨hp, htimer, henable⟩ := h.of_classifies (by rw [hmode]; rfl)
  obtain ⟨-, htimeout, -, -, hinv, hstrikes, hrelief⟩ := h.counts
  have hrun := h.lockRun_lt (by simp [hmode])
  subst hp
  have hrun' : (if cls.isValid then l.lockRun + 1 else 0) ≤ Config.lockRunLength := by
    simp only [Config.lockRunLength]
    split <;> omega
  have hinv' : (if l.autoPolarity = true ∧ cls = .inverted then l.invRun + 1 else 0) ≤ Config.invertedRunLength := by
    split <;> omega
  unfold LaneRx.seek
  generalize (if cls.isValid then l.lockRun + 1 else 0) = run at hrun'
  generalize (if l.autoPolarity = true ∧ cls = .inverted then l.invRun + 1 else 0) = inv at hinv'
  dsimp only
  split
  · rename_i hlock
    exact ⟨⟨by simp [henable], htimeout, hrun', by simp [hlock], invRun_zero_lt, by simp [Config.strikeLimit],
      by simp [Config.reliefRunLength]⟩, by simp [LaneRx.TimerFollows, htimer], fun hp => by cases hp⟩
  · rename_i hlock
    split
    · exact ⟨⟨by simp [henable, hmode], htimeout, Nat.zero_le _, by simp [hmode, Config.lockRunLength], invRun_zero_lt, hstrikes,
        hrelief⟩, by simp [LaneRx.TimerFollows, htimer, hmode], fun hp => by cases hp⟩
    · rename_i hflip
      exact ⟨⟨by simp [henable, hmode], htimeout, hrun', by simp [hmode, hlock], Nat.lt_of_le_of_ne hinv' hflip, hstrikes,
        hrelief⟩, by simp [LaneRx.TimerFollows, htimer, hmode], fun hp => by cases hp⟩

/-- A symbol in LOCKED that is not the fourth strike (R25). -/
theorem strike (h : l.Legal present) (cls : SymbolClass) (hlt : (l.strike cls).strikes < 4) :
    (l.strike cls).Legal present := by
  obtain ⟨⟨henable, htimeout, hrun, hlocked, hinv, -, hrelief⟩, htimer, hsearch⟩ := h
  have hframe : (l.strike cls) = { l with
      relief := (l.strike cls).relief, strikes := (l.strike cls).strikes
      invalidSymbols := (l.strike cls).invalidSymbols } := by
    unfold LaneRx.strike
    split
    · split <;> rfl
    · rfl
  have hzero : 0 < Config.reliefRunLength := by decide
  have hrelief' : (l.strike cls).relief < Config.reliefRunLength := by
    unfold LaneRx.strike
    split
    · split
      · exact hzero
      · rename_i hmore
        exact Nat.lt_of_le_of_ne hrelief hmore
    · exact hzero
  rw [hframe]
  exact ⟨⟨henable, htimeout, hrun, hlocked, hinv, hlt, hrelief'⟩, htimer, hsearch⟩

/-- The fourth strike (R27). -/
theorem struckOut (h : l.Legal present) (cls : SymbolClass) (hmode : l.mode = .locked) :
    ((l.strike cls).struckOut).Legal present := by
  obtain ⟨hp, htimer, henable⟩ := h.of_classifies (by rw [hmode]; rfl)
  obtain ⟨-, htimeout, -⟩ := h.counts
  subst hp
  refine ⟨.of_zero ?_ ?_ nofun rfl rfl rfl rfl, ?_, fun hp => by cases hp⟩
  · simp [LaneRx.struckOut, LaneRx.clearRuns, henable]
  · simpa [LaneRx.struckOut, LaneRx.clearRuns] using htimeout
  · simp [LaneRx.TimerFollows, LaneRx.struckOut, LaneRx.clearRuns, htimer]

/-- The reference is lost (R35). -/
theorem referenceLost (h : l.Legal true) : l.referenceLost.Legal false := by
  unfold LaneRx.referenceLost
  split
  · rename_i hmode
    exact h.toAcquiring _ _ (by simp [hmode])
  · rename_i hmode
    exact h.toAcquiring _ _ (by simp [hmode])
  · rename_i hmode
    have hrunning := h.timer.2 hmode
    refine ⟨h.counts, ?_, fun _ => by rw [hmode]; rfl⟩
    cases ht : l.acqTimer <;> simp [LaneRx.TimerFollows, hmode, Timer.hold, Timer.isRunning]
  · rename_i hmode
    have htimer := h.timer.1
    exact ⟨h.counts, ⟨htimer, fun ha => by rw [hmode] at ha; cases ha⟩, fun _ => by rw [hmode]; rfl⟩

/-- The reference returns (R36). -/
theorem referenceRestored (h : l.Legal false) : l.referenceRestored.Legal true := by
  unfold LaneRx.referenceRestored
  split
  · rename_i hmode
    exact ⟨h.counts, startAcq_timer l true hmode, fun hp => by cases hp⟩
  all_goals
    rename_i hmode
    exact ⟨h.counts, ⟨h.timer.1, fun ha => by rw [hmode] at ha; cases ha⟩, fun hp => by cases hp⟩

end LaneRx.Legal

@[simp] theorem Timer.tick_isRunning (t : Timer) : t.tick.isRunning = t.isRunning := by cases t <;> rfl

@[simp] theorem Timer.tick_eq_stopped (t : Timer) : t.tick = .stopped ↔ t = .stopped := by
  cases t <;> simp [Timer.tick]

end Sys2Proof.Machine

/-! What every command keeps of the single blocks, by family; then of a step, and with it the six statements of the
blocks. -/

namespace Sys2Proof.Machine

/-! ## The commands of the lanes -/

theorem modLane_modLane (s : State) (n : Lane) (f g : LaneRx → LaneRx) :
    (s.modLane n f).modLane n g = s.modLane n fun l => g (f l) := by
  simp [State.modLane]

theorem writeLaneConfig_kept (n : Lane) (v : Word) (late lateEntry : Bool) (s : State) :
    BlocksKept s (writeLaneConfig n v late lateEntry s) := by
  have hmode : ∀ l : LaneRx, (l.configure v).mode = l.mode := fun _ => rfl
  unfold writeLaneConfig
  dsimp only
  split
  · rename_i hon
    split
    · rw [modLane_modLane]
      exact (modLane_kept fun _ => .enabled v _ _ hon).trans (snapLaneDown_kept n _)
    · rename_i hmode
      exact modLane_kept fun h => h.configure v ⟨fun _ => hmode, fun _ => hon⟩
  · rename_i hoff
    split
    · rename_i hmode
      exact modLane_kept fun h => h.configure v ⟨fun hon => absurd hon hoff, fun hne => absurd hmode hne⟩
    · unfold disableLane
      rw [modLane_modLane]
      refine BlocksKept.trans ?_ (lossNotices_kept n _ _ late lateEntry _)
      refine BlocksKept.trans ?_ (bufLaneOff_lanesStay n _).kept
      refine BlocksKept.trans ?_ (raiseLockLost_kept n _ _)
      exact modLane_kept fun _ => .toOff v _ _ (Bool.eq_false_iff.mpr hoff)

theorem clearLaneCounters_kept (n : Lane) (s : State) : BlocksKept s (clearLaneCounters n s) := by
  refine (modLane_kept fun h => ?_).trans (modRoll_kept id id)
  exact ⟨h.counts, h.timer, h.search⟩

theorem writeLaneControl_kept (n : Lane) (v : Word) (s : State) : BlocksKept s (writeLaneControl n v s) := by
  unfold writeLaneControl
  split
  · exact clearLaneCounters_kept n s
  · exact raiseGlobal_kept s _

theorem acqExpire_kept (n : Lane) (s : State) : BlocksKept s (acqExpire n s) := by
  unfold acqExpire
  dsimp only
  split
  · rename_i hdue
    obtain ⟨hmode, hdue⟩ := hdue
    refine (modLane_kept fun h => ?_).trans (raiseLane_kept _ n _)
    have hrunning : (s.lanes.get n).acqTimer.isRunning = true := by
      cases ht : (s.lanes.get n).acqTimer <;> simp_all [Timer.due, Timer.isRunning]
    have hp : s.refmon.present = true := (h.timer.2 hmode).1 hrunning
    rw [hp] at h ⊢
    exact h.acqExpired hmode _
  · exact .refl s

theorem frequencyLock_kept (n : Lane) (s : State) : BlocksKept s (frequencyLock n s) := by
  unfold frequencyLock
  split
  · rename_i h
    obtain ⟨hmode, hp⟩ := h
    refine modLane_kept fun h => ?_
    rw [hp] at h ⊢
    exact h.frequencyLock hmode
  · exact .refl s

theorem frequencyLoss_kept (n : Lane) (late lateEntry : Bool) (s : State) :
    BlocksKept s (frequencyLoss n late lateEntry s) := by
  unfold frequencyLoss
  dsimp only
  split
  · rename_i hmode
    refine BlocksKept.trans ?_ (lossNotices_kept n _ _ late lateEntry _)
    refine BlocksKept.trans ?_ (raiseLockLost_kept n _ _)
    exact modLane_kept fun h => h.toAcquiring _ _ fun hoff => by simp [hoff, LaneMode.classifies] at hmode
  · exact .refl s

theorem seekSymbol_kept (n : Lane) (cls : SymbolClass) {s : State} (hmode : (s.lanes.get n).mode = .seeking) :
    BlocksKept s (seekSymbol n cls s) := by
  have harrived := arrivedFrom_lanesStay (.receiver n) s
  unfold seekSymbol
  dsimp only
  split
  · refine BlocksKept.trans (harrived.kept.trans (modLane_kept fun h => ?_)) (raiseLane_kept _ n _)
    exact h.seek cls (by rw [harrived.lanes, hmode])
  · have hseek : BlocksKept s (s.modLane n fun l => l.seek cls) := modLane_kept fun h => h.seek cls hmode
    split
    · exact hseek
    · exact hseek.trans (raiseLane_kept _ n _)

theorem lockedSymbol_kept (n : Lane) (cls : SymbolClass) {s : State} (hmode : (s.lanes.get n).mode = .locked) :
    BlocksKept s (lockedSymbol n cls s) := by
  unfold lockedSymbol
  dsimp only
  split
  · exact (modLane_kept fun h => h.struckOut cls hmode).trans (raiseLane_kept _ n _)
  · rename_i hlt
    exact modLane_kept fun h => h.strike cls (Nat.lt_of_not_le hlt)

theorem laneTake_kept (n : Lane) (cls : SymbolClass) {s : State} {mode : LaneMode} (hmode : (s.lanes.get n).mode = mode) :
    BlocksKept s (laneTake n cls mode s) := by
  cases mode
  · exact .refl s
  · exact .refl s
  · exact seekSymbol_kept n cls hmode
  · exact lockedSymbol_kept n cls hmode

theorem symbolNotice_kept (n : Lane) (was : LaneMode) (late lateEntry : Bool) (s : State) :
    BlocksKept s (symbolNotice n was late lateEntry s) := by
  unfold symbolNotice
  split
  · exact noticeLockGained_kept n late s
  · exact noticeLockLost_kept n _ late lateEntry s
  · exact .refl s

theorem takeSymbol_kept (n : Lane) (p : LinePattern) (h : Handing) (s : State) : BlocksKept s (takeSymbol n p h s) := by
  have hwrite := fun cls locked late t => (writeTake_lanesStay n cls locked late t).kept
  unfold takeSymbol
  dsimp only
  generalize classify (s.lanes.get n).polarity p = cls
  have hlanes : (snapTake n cls (rollTake n cls h.lateEntry s)).lanes = s.lanes := by
    rw [(snapTake_snapOnly n cls _).rest]
    exact (rollTake_rollMoves n cls h.lateEntry s).lanes
  have hlane : BlocksKept s (laneTake n cls (s.lanes.get n).mode (snapTake n cls (rollTake n cls h.lateEntry s))) :=
    ((rollTake_kept n cls _ s).trans (snapTake_kept n cls _)).trans (laneTake_kept n cls (by rw [hlanes]))
  split
  · exact (hlane.trans (symbolNotice_kept n _ _ _ _)).trans (hwrite _ _ _ _)
  · exact (hlane.trans (hwrite _ _ _ _)).trans (symbolNotice_kept n _ _ _ _)

/-! ## The reference monitor and the timebase -/

theorem declareAbsent_kept (order late lateEntry : List Lane) {s : State} (hp : s.refmon.present = true) :
    BlocksKept s (declareAbsent order late lateEntry { s with refmon := { s.refmon with edges := 0 } }) := by
  unfold declareAbsent
  dsimp only
  refine BlocksKept.trans (t := { s with
    refmon := { s.refmon with edges := 0, present := false }
    lanes := s.lanes.mapIdx fun _ l => l.referenceLost }) ?_ ?_
  · refine lanes_kept rfl rfl rfl rfl fun ⟨hlanes, _⟩ => ⟨fun n => ?_, by simp [State.MonitorOk, Config.presentEdges]⟩
    have hn := hlanes n
    rw [hp] at hn
    simpa using hn.referenceLost
  · refine BlocksKept.trans ?_ (BlocksKept.foldl (fun t n => ?_) _ _)
    · exact blocksKept_of_eq rfl rfl rfl rfl rfl rfl
    · split
      · exact lossNotices_kept n _ _ _ _ t
      · exact .refl t

theorem referenceGap_kept (order late lateEntry : List Lane) (s : State) :
    BlocksKept s (referenceGap order late lateEntry s) := by
  unfold referenceGap
  split
  · exact .refl s
  · dsimp only
    split
    · rename_i hp
      exact declareAbsent_kept order late lateEntry hp
    · rename_i hp
      refine lanes_kept rfl rfl rfl rfl fun ⟨hlanes, _⟩ => ⟨hlanes, ?_⟩
      simp [State.MonitorOk, Config.presentEdges, hp]

theorem refclkEdge_kept (s : State) : BlocksKept s (refclkEdge s) := by
  unfold refclkEdge
  dsimp only
  split
  · exact lanes_kept rfl rfl rfl rfl id
  · rename_i ha
    have ha : s.refmon.present = false := by simpa using ha
    split
    · refine lanes_kept rfl rfl rfl rfl fun ⟨hlanes, _⟩ => ⟨fun n => ?_, by simp [State.MonitorOk]⟩
      have hn := hlanes n
      rw [ha] at hn
      simpa using hn.referenceRestored
    · rename_i hmore
      refine lanes_kept rfl rfl rfl rfl fun ⟨hlanes, hle, hcount⟩ => ⟨hlanes, ?_⟩
      have hne : s.refmon.edges ≠ Config.presentEdges := fun e => by
        rw [hcount.2 e] at ha
        cases ha
      simp only [State.MonitorOk, ha, Bool.false_eq_true, false_iff]
      omega

theorem Bond.nextPhase_keeps (bd : Bond) : bd.nextPhase.LineOk = bd.LineOk ∧ bd.nextPhase.CountsOk = bd.CountsOk := by
  unfold Bond.nextPhase
  split
  · exact ⟨rfl, rfl⟩
  · exact ⟨rfl, rfl⟩
  · split
    · exact ⟨rfl, rfl⟩
    · split
      · exact ⟨rfl, rfl⟩
      · split <;> exact ⟨rfl, rfl⟩

theorem Bond.nextUnit_keeps (bd : Bond) (now : Word32) :
    (bd.nextUnit now).LineOk = bd.LineOk ∧ (bd.nextUnit now).CountsOk = bd.CountsOk := by
  have hpostpone : ∀ q : Bond, (q.postpone now).LineOk = q.LineOk ∧ (q.postpone now).CountsOk = q.CountsOk := by
    intro q
    unfold Bond.postpone
    split <;> exact ⟨rfl, rfl⟩
  obtain ⟨h1, h2⟩ := hpostpone bd.nextPhase
  obtain ⟨k1, k2⟩ := bd.nextPhase_keeps
  exact ⟨h1.trans k1, h2.trans k2⟩

/-- A change of every bond that keeps each line word and each count. -/
theorem mapBonds_kept {s t : State} {f : Fin 4 → Bond → Bond} (hbonds : t.bonds = s.bonds.mapIdx f)
    (hlanes : t.lanes = s.lanes) (hrolls : t.rolls = s.rolls) (hbufs : t.bufs = s.bufs) (hrefmon : t.refmon = s.refmon)
    (hsnap : t.snap = s.snap) (hline : ∀ b bd, bd.LineOk → (f b bd).LineOk)
    (hcounts : ∀ b bd, bd.CountsOk → (f b bd).CountsOk) : BlocksKept s t where
  snap := by rw [hsnap]; exact id
  depth := by rw [hbufs]; exact id
  entries := by unfold State.EntriesOk; rw [hrolls]; exact id
  line h b := by rw [hbonds, Four.get_mapIdx]; exact hline b _ (h b)
  counts h b := by rw [hbonds, Four.get_mapIdx]; exact hcounts b _ (h b)
  receivers := by unfold State.ReceiversOk State.MonitorOk; rw [hlanes, hrefmon]; exact id

theorem advanceUnit_kept (arrivals : Option (List (BondId × Sender))) (s : State) :
    BlocksKept s (advanceUnit arrivals s) := by
  unfold advanceUnit
  split
  · refine (arrived_lanesStay s arrivals).kept.trans ?_
    exact mapBonds_kept (f := fun _ bd => bd.nextUnit ((s.arrived arrivals).timestamp + 1)) rfl rfl rfl rfl rfl rfl
      (fun _ bd h => by rw [(bd.nextUnit_keeps _).1]; exact h)
      (fun _ bd h => by rw [(bd.nextUnit_keeps _).2]; exact h)
  · exact .refl s

theorem beginSlot_kept (s : State) : BlocksKept s (beginSlot s) :=
  mapBonds_kept (f := fun _ bd => bd.sendWord) rfl rfl rfl rfl rfl rfl
    (fun _ bd _ => ⟨rfl, rfl, by
      have hbeq : ∀ k : CallKind, (k == .go) = true ↔ k = .go := fun k => beq_iff_eq
      exact hbeq _⟩)
    (fun _ _ h => h)

theorem countTick_kept (s : State) : BlocksKept s (countTick s) where
  snap h := by
    obtain ⟨h1, h2, h3, h4⟩ := h
    exact ⟨h1, h2, by simpa [countTick] using h3, h4⟩
  depth := id
  entries := id
  line h b := by simpa [countTick, Bond.tick] using h b
  counts h b := by simpa [countTick, Bond.tick] using h b
  receivers := by
    rintro ⟨hlanes, hmonitor⟩
    refine ⟨fun n => ?_, hmonitor⟩
    obtain ⟨hcounts, htimer, hsearch⟩ := hlanes n
    have hpresent : s.refmon.tick.present = s.refmon.present := rfl
    simp only [countTick, Eight.get_mapIdx]
    exact ⟨hcounts, by simpa [LaneRx.TimerFollows, hpresent] using htimer, hsearch⟩

theorem tick_kept (s : State) : BlocksKept s (tick s) := by
  have hcounted := (landed_lanesStay s).kept.trans (countTick_kept s.landed)
  unfold tick
  dsimp only
  generalize countTick s.landed = t at hcounted
  exact hcounted.trans (blocksKept_of_eq rfl rfl rfl rfl rfl rfl)

/-! ## The bonds -/

theorem writeResult_kept (b : BondId) (c : Command) (k : ResultKind) (st : BondState) (why : Option StartRefusal)
    (s : State) : BlocksKept s (writeResult b c k st why s) := modBond_kept id id

/-- A bond in HOLDING or CALLING with its retrain and settle counts 0 (R67, R70). -/
theorem enterHolding_kept {b : BondId} {s : State} (hretrain : (s.bonds.get b).retrain = 0) :
    BlocksKept s (enterHolding b s) := by
  have hmoves := enterHolding_moves b s
  have hbond := (enterHolding_effect b s).2.2.2
  have hcounts : ((enterHolding b s).bonds.get b).retrain = 0 ∧ ((enterHolding b s).bonds.get b).settle = 0 := by
    have hleft := (s.bonds.get b).toHolding_left.retrain
    rw [hbond]
    split <;> exact ⟨hleft.trans hretrain, rfl⟩
  refine ⟨by rw [hmoves.snap]; exact id, hmoves.depth, fun he n => ?_, fun hl c => ?_, fun hc c => ?_,
    by unfold State.ReceiversOk State.MonitorOk; rw [hmoves.lanes, hmoves.time.refmon]; exact id⟩
  · rcases hmoves.rolls n with hn | hn <;> rw [hn]
    · exact he n
    · exact Entry.clear_ok _
  · by_cases hcb : c = b
    · subst hcb
      obtain ⟨h1, _, h3, h4, h5⟩ := hmoves.line
      unfold Bond.LineOk
      rw [h1, h3, h4, h5]
      exact hl c
    · rw [hmoves.others c hcb]
      exact hl c
  · by_cases hcb : c = b
    · subst hcb
      exact ⟨fun _ => by rw [hcounts.1]; exact Nat.zero_le _, by rw [hcounts.2]; exact Nat.zero_le _⟩
    · rw [hmoves.others c hcb]
      exact hc c

theorem takeStart_kept (b : BondId) (s : State) : BlocksKept s (takeStart b s) := by
  unfold takeStart
  dsimp only
  split
  · split
    · exact writeResult_kept b _ _ _ _ s
    · refine BlocksKept.trans (t := s.modBond b Bond.started) ?_ ((enterHolding_kept ?_).trans (writeResult_kept b _ _ _ _ _))
      · exact modBond_kept id fun _ => ⟨fun _ => Nat.zero_le _, Nat.zero_le _⟩
      · simp [Bond.started]
  · exact writeResult_kept b _ _ _ _ s

theorem enterDisabled_kept (b : BondId) (s : State) : BlocksKept s (enterDisabled b s) := by
  refine (modBond_kept ?_ ?_).trans (bufs_lanesStay _ (clearBufs_moves _ b _).depth).kept
  · obtain ⟨h1, _, h3, h4, h5⟩ := (s.bonds.get b).toDisabled_left.line
    unfold Bond.LineOk
    rw [h1, h3, h4, h5]
    exact id
  · intro h
    refine ⟨fun hd => absurd rfl hd, ?_⟩
    have hsettle : (s.bonds.get b).endMend.leaveRun.stopTimers.settle = (s.bonds.get b).settle := by
      unfold Bond.stopTimers
      rw [Bond.leaveRun_frame, Bond.endMend_frame]
    exact hsettle ▸ h.2

theorem takeStop_kept (b : BondId) (s : State) : BlocksKept s (takeStop b s) := by
  unfold takeStop
  dsimp only
  refine BlocksKept.trans ?_ (writeResult_kept b _ _ _ _ _)
  split
  · exact .refl s
  · exact enterDisabled_kept b s

theorem takeRetrain_kept (b : BondId) (s : State) : BlocksKept s (takeRetrain b s) := by
  unfold takeRetrain
  dsimp only
  split
  · exact writeResult_kept b _ _ _ _ s
  · refine BlocksKept.trans (t := s.modBond b fun bd => { bd with retrain := 0, settle := 0 }) ?_
      ((enterHolding_kept ?_).trans (writeResult_kept b _ _ _ _ _))
    · exact modBond_kept id fun _ => ⟨fun _ => Nat.zero_le _, Nat.zero_le _⟩
    · simp

theorem takeClearFault_kept (b : BondId) (s : State) : BlocksKept s (takeClearFault b s) :=
  (modBond_kept id id).trans (writeResult_kept b _ _ _ _ _)

theorem takeClearCounters_kept (b : BondId) (s : State) : BlocksKept s (takeClearCounters b s) :=
  (modBond_kept id id).trans (writeResult_kept b _ _ _ _ _)

theorem writeCommand_kept (b : BondId) (v : Word) (s : State) : BlocksKept s (writeCommand b v s) := by
  unfold writeCommand
  split
  · exact takeStart_kept b s
  · exact takeStop_kept b s
  · exact takeRetrain_kept b s
  · exact takeClearFault_kept b s
  · exact takeClearCounters_kept b s
  · exact raiseGlobal_kept s _

theorem writeBondConfig_kept (b : BondId) (off : Fin 10) (v : Word) (s : State) :
    BlocksKept s (writeBondConfig b off v s) := by
  unfold writeBondConfig
  split
  · rename_i hoff
    exact modBond_kept id fun h => ⟨fun hon => absurd hoff hon, h.2⟩
  · exact (modPort_kept s _).trans (raiseGlobal_kept _ _)

/-- The fault of an expired timer, in a bond that is not DISABLED. -/
theorem takeFault_kept {b : BondId} {s : State} (cause : FaultCause) (lane : Option Lane) (index : Option Index)
    (detail : Option Detail) (hactive : (s.bonds.get b).state ≠ .disabled) :
    BlocksKept s (takeFault b cause lane index detail s) :=
  ((takeFault_moves b cause lane index detail s).lanesStay hactive).kept

theorem holdExpire_kept (b : BondId) (s : State) : BlocksKept s (holdExpire b s) := by
  unfold holdExpire
  dsimp only
  split
  · rename_i h
    exact takeFault_kept _ _ _ _ (by simp [h.1])
  · exact .refl s

theorem callExpire_kept (b : BondId) (s : State) : BlocksKept s (callExpire b s) := by
  unfold callExpire
  dsimp only
  split
  · rename_i h
    exact takeFault_kept _ _ _ _ (by simp [h.1])
  · exact .refl s

theorem alignExpire_kept (b : BondId) (s : State) : BlocksKept s (alignExpire b s) := by
  unfold alignExpire
  dsimp only
  split
  · rename_i h
    exact takeFault_kept _ _ _ _ (by simp [h.1])
  · exact .refl s

theorem mendExpire_kept (b : BondId) (s : State) : BlocksKept s (mendExpire b s) := by
  unfold mendExpire
  dsimp only
  split
  · rename_i h
    exact takeFault_kept _ _ _ _ (by simp [h.1])
  · exact .refl s

/-! ## Read sides, releases and epoch events -/

theorem bondTakes_lanesStay (b : BondId) (x : Notice) (s : State) : LanesStay s (bondTakes b x s) := by
  by_cases h : (s.bonds.get b).state = .disabled
  · rw [bondTakes_disabled x h]
    exact .refl s
  · exact (bondTakes_moves b x s).lanesStay h

/-- A notice sent, in any state of its bond. -/
theorem tell_lanesStay (s : State) (b : BondId) (x : Notice) (late : Bool) : LanesStay s (s.tell b x late) := by
  cases late
  · exact (takeFrom_lanesStay b x.sender s).trans (bondTakes_lanesStay b x _)
  · exact withInFlight_lanesStay s b _

theorem reportUnderflows_lanesStay (b : BondId) (under : List Lane) (late : Bool) (s : State) :
    LanesStay s (reportUnderflows b under late s) := by
  induction under generalizing s with
  | nil => exact .refl s
  | cons n rest ih => exact (tell_lanesStay s b _ late).trans (ih _)

theorem gapSlot_kept (b : BondId) (sh : Shape) (late : Bool) (s : State) : BlocksKept s (gapSlot b sh late s) :=
  ((popReadLanes_lanesStay b _ s).kept.trans (modBond_kept id id)).trans (reportUnderflows_lanesStay b _ late _).kept

/-- What a read slot of data position j does to its bond, an UNDERFLOW on the lanes of `under` (R124). -/
def Bond.rowTaken (bd : Bond) (sh : Shape) (j : Nat) (row : List (Word × Bool)) (under : List Lane) (whole : Bool) : Bond :=
  let bd := (bd.presentRow sh j row).slotDone under
  { bd with rd := { bd.rd with whole := whole } }

/-- A row changes the read side and the reassembly only. -/
theorem Bond.rowTaken_frame (bd : Bond) (sh : Shape) (j : Nat) (row : List (Word × Bool)) (under : List Lane) (whole : Bool) :
    ∃ rd ra, bd.rowTaken sh j row under whole = { bd with rd, ra } := ⟨_, _, rfl⟩

/-- The state of a read slot before its reports: the heads are popped and the bond has taken the row. -/
def State.afterRow (s : State) (b : BondId) (sh : Shape) (j : Nat) : State :=
  (s.popReadLanes b sh.lanes).modBond b fun bd =>
    bd.rowTaken sh j (s.handedRow b sh.lanes) (s.underflows b sh.lanes) ((s.bonds.get b).wholeAt j)

/-- A read slot is its row and the reports of it: the UNDERFLOWs, and at the last one the sweep-completed notice. -/
theorem rowSlot_eq (b : BondId) (sh : Shape) (j : Nat) (reportFirst late : Bool) (s : State) :
    rowSlot b sh j reportFirst late s =
      if j + 1 = sh.sweep then
        if reportFirst then
          (reportUnderflows b (s.underflows b sh.lanes) late ((s.afterRow b sh j).modBond b Bond.countSweep)).tell b
            (.sweepCompleted ((s.bonds.get b).wholeAt j)) late
        else
          reportUnderflows b (s.underflows b sh.lanes) late (((s.afterRow b sh j).modBond b Bond.countSweep).tell b
            (.sweepCompleted ((s.bonds.get b).wholeAt j)) late)
      else reportUnderflows b (s.underflows b sh.lanes) late (s.afterRow b sh j) := rfl

theorem rowSlot_kept (b : BondId) (sh : Shape) (j : Nat) (reportFirst late : Bool) (s : State) :
    BlocksKept s (rowSlot b sh j reportFirst late s) := by
  have hunder := fun under t => (reportUnderflows_lanesStay b under late t).kept
  have htell := fun t x => (tell_lanesStay t b x late).kept
  have hrow : BlocksKept s (s.afterRow b sh j) := by
    refine (popReadLanes_lanesStay b sh.lanes s).kept.trans (modBond_kept ?_ ?_) <;>
      (obtain ⟨rd, ra, h⟩ := Bond.rowTaken_frame ((s.popReadLanes b sh.lanes).bonds.get b) sh j (s.handedRow b sh.lanes)
        (s.underflows b sh.lanes) ((s.bonds.get b).wholeAt j)
       rw [h]; exact id)
  rw [rowSlot_eq]
  split
  · split
    · exact ((hrow.trans (modBond_kept id id)).trans (hunder _ _)).trans (htell _ _)
    · exact ((hrow.trans (modBond_kept id id)).trans (htell _ _)).trans (hunder _ _)
  · exact hrow.trans (hunder _ _)

theorem fillSlot_kept (b : BondId) (sh : Shape) (j : Nat) (late : Bool) (s : State) :
    BlocksKept s (fillSlot b sh j late s) := by
  have hslot : BlocksKept s (s.modBond b fun bd => bd.completingSlot sh j) := by
    refine modBond_kept_of_eq ?_ ?_ <;> (unfold Bond.completingSlot; dsimp only; split <;> rfl)
  unfold fillSlot
  dsimp only
  split
  · exact hslot.trans (tell_lanesStay _ b _ late).kept
  · exact hslot

theorem readSlotNow_kept (b : BondId) (reportFirst late : Bool) (s : State) :
    BlocksKept s (readSlotNow b reportFirst late s) := by
  unfold readSlotNow
  dsimp only
  split
  · exact .refl s
  · split
    · exact .refl s
    · split
      · exact gapSlot_kept b _ late s
      · exact rowSlot_kept b _ _ reportFirst late s
    · split
      · exact .refl s
      · exact fillSlot_kept b _ _ late s

/-- A seat that completes leaves the retrain limit with the count (R96, R136). -/
theorem completeSeat_kept {b : BondId} {s : State} (h : s.seatDue b = true) : BlocksKept s (completeSeat b s) := by
  have hmending : (s.bonds.get b).state = .mending := by
    simp only [State.seatDue, Bool.and_eq_true, beq_iff_eq] at h
    exact h.1.1.1
  unfold completeSeat
  split
  · rename_i m _
    refine ((modBond_kept ?_ fun hc => ?_).trans (raiseBond_kept _ b _)).trans (raiseBond_kept _ b _)
    · exact id
    · have hlimit : ((s.bonds.get b).seated m).cfg.retrainLimit = (s.bonds.get b).cfg.retrainLimit := by
        simp only [Bond.seated]
        split <;> rfl
      exact ⟨fun _ => by rw [hlimit]; exact hc.1 (by simp [hmending]), hc.2⟩
  · exact .refl s

theorem takeSlot_kept (b : BondId) (reportFirst late : Bool) (s : State) :
    BlocksKept s (takeSlot b reportFirst late s) := by
  unfold takeSlot
  split
  · exact .refl s
  · refine BlocksKept.trans ?_ (readSlotNow_kept b reportFirst late _)
    split
    · rename_i hdue
      exact completeSeat_kept hdue
    · exact .refl s

theorem takeBeforeRelease_lanesStay (b : BondId) (s : State) : LanesStay s (takeBeforeRelease b s) := by
  unfold takeBeforeRelease
  split
  · exact takeInFlight_lanesStay b s
  · exact .refl s

theorem takeRelease_kept (b : BondId) (late : Bool) (s : State) : BlocksKept s (takeRelease b late s) := by
  have hbefore := (takeBeforeRelease_lanesStay b s).kept
  unfold takeRelease
  dsimp only
  split
  · split
    · exact ((hbefore.trans (modBond_kept id id)).trans (tell_lanesStay _ b _ late).kept).trans
        (takeSlot_kept b false late _)
    · exact hbefore
  · exact hbefore

theorem compareEpoch_kept (b : BondId) (late : Bool) (s : State) : BlocksKept s (compareEpoch b late s) := by
  have hlast : BlocksKept s (s.modBond b fun bd => { bd with rel := { bd.rel with lastPhase := some (s.bonds.get b).rd.phase } }) :=
    modBond_kept id id
  unfold compareEpoch
  dsimp only
  split
  · exact hlast
  · split
    · exact ((hlast.trans (modBond_kept id id)).trans (raiseBond_kept _ b _)).trans (tell_lanesStay _ b _ late).kept
    · exact hlast

theorem releaseUnitTakesEpoch_kept (b : BondId) (late : Bool) (s : State) :
    BlocksKept s (releaseUnitTakesEpoch b late s) := by
  unfold releaseUnitTakesEpoch
  dsimp only
  split
  · exact .refl s
  · split
    · exact .refl s
    · exact .refl s
    · exact .refl s
    · exact modBond_kept id id
    · split
      · exact compareEpoch_kept b late s
      · exact .refl s

theorem takeEpoch_kept (late : List BondId) (s : State) : BlocksKept s (takeEpoch late s) := by
  unfold takeEpoch
  split
  · exact BlocksKept.foldl (fun t b => releaseUnitTakesEpoch_kept b _ t) _ s
  · exact .refl s

/-! ## Resets and the host port -/

/-- The reset values keep to every bound. -/
theorem reset_kept {s t : State} (hlanes : t.lanes = State.reset.lanes) (hrolls : t.rolls = State.reset.rolls)
    (hbufs : t.bufs = State.reset.bufs) (hbonds : t.bonds = State.reset.bonds) (hrefmon : t.refmon = State.reset.refmon)
    (hsnap : t.snap = State.reset.snap) : BlocksKept s t := by
  have hinv := invariantHoldsAtReset
  have hbond : Bond.reset.LineOk ∧ Bond.reset.CountsOk := by decide
  refine ⟨fun _ => by rw [hsnap]; exact hinv.snap, fun _ n => ?_, fun _ n => ?_, fun _ b => ?_, fun _ b => ?_, fun _ => ?_⟩
  · rw [hbufs]; exact (hinv.buffers n).1
  · rw [hrolls]; exact hinv.entries n
  · rw [hbonds, reset_bonds_get]; exact hbond.1
  · rw [hbonds, reset_bonds_get]; exact hbond.2
  · have hreset := (State.receiversOk_iff State.reset).2 ⟨hinv.lanes, hinv.search, hinv.monitor⟩
    unfold State.ReceiversOk State.MonitorOk at hreset ⊢
    rw [hlanes, hrefmon]
    exact hreset

theorem writeControl_kept (v : Word) (s : State) : BlocksKept s (writeControl v s) := by
  unfold writeControl
  split
  · exact reset_kept rfl rfl rfl rfl rfl rfl
  · exact blocksKept_of_eq rfl rfl rfl rfl rfl rfl

theorem clearPending_kept (s : State) (g : FlagGroup) (v : Word) : BlocksKept s (s.clearPending g v) := by
  cases g <;> exact blocksKept_of_eq rfl rfl rfl rfl rfl rfl

theorem writeEnable_kept (s : State) (g : FlagGroup) (v : Word) : BlocksKept s (s.writeEnable g v) := by
  cases g <;> exact blocksKept_of_eq rfl rfl rfl rfl rfl rfl

theorem writeSelect_kept (v : Word) (s : State) : BlocksKept s (writeSelect v s) := by
  unfold writeSelect
  split
  · exact raiseGlobal_kept s _
  · exact modPort_kept s _

theorem hostWrite_kept (r : Reg) (v : Word) (s : State) : BlocksKept s (hostWrite r v s) := by
  cases r with
  | global off =>
    simp only [hostWrite]
    split
    · exact writeControl_kept v s
    · exact clearPending_kept s _ v
    · exact writeEnable_kept s _ v
    · exact writeSelect_kept v s
    · exact raiseGlobal_kept s _
  | lane n off =>
    simp only [hostWrite]
    split
    · exact writeLaneConfig_kept n v _ _ s
    · exact writeLaneControl_kept n v s
    · exact clearPending_kept s _ v
    · exact writeEnable_kept s _ v
    · exact raiseGlobal_kept s _
  | entry n off => exact raiseGlobal_kept s _
  | bond b off =>
    simp only [hostWrite]
    split
    · exact writeBondConfig_kept b _ v s
    · split
      · exact writeCommand_kept b v s
      · exact clearPending_kept s _ v
      · exact writeEnable_kept s _ v
      · exact raiseGlobal_kept s _
  | snap off =>
    simp only [hostWrite]
    split
    · exact writeSnapControl_kept v s
    · exact raiseGlobal_kept s _
  | unmapped => exact raiseGlobal_kept s _

theorem readSlot_kept (a : Addr) (s : State) : BlocksKept s (readSlot a s) := by
  unfold readSlot
  dsimp only
  split
  · split <;> exact modPort_kept s _
  · exact (modPort_kept s _).trans (raiseGlobal_kept _ _)

theorem takeHeader_kept (h : Word) (s : State) : BlocksKept s (takeHeader h s) := by
  unfold takeHeader
  split
  · exact modPort_kept s _
  · exact (modPort_kept s _).trans (raiseGlobal_kept _ _)

theorem partialWord_kept (bits : Fin 16) (s : State) : BlocksKept s (partialWord bits s) := by
  unfold partialWord
  dsimp only
  split
  · exact modPort_kept s _
  · exact (modPort_kept s _).trans (raiseGlobal_kept _ _)

theorem dataWord_kept {read : Bool} {a : Addr} {act : State → State} {s : State} (h : ∀ t, BlocksKept t (act t)) :
    BlocksKept s (dataWord read a act s) := by
  unfold dataWord
  split
  · exact (modPort_kept s _).trans (h _)
  · exact .refl s

/-! ## Every command, and a step -/

/-- Every command keeps the bounds of each block. -/
theorem exec_kept (c : Instr) (s t : State) (h : exec c s = .next t) : BlocksKept s t := by
  cases c <;> (obtain rfl := Host.Outcome.next.inj h)
  case pinReset csnLow => exact reset_kept rfl rfl rfl rfl rfl rfl
  case resetPart v => exact dataWord_kept fun t => writeControl_kept v t
  case refclkEdge => exact refclkEdge_kept s
  case referenceGap order late lateEntry => exact referenceGap_kept order late lateEntry s
  case laneEnable n v => exact dataWord_kept fun t => writeLaneConfig_kept n v _ _ t
  case laneDisable n v late lateEntry => exact dataWord_kept fun t => writeLaneConfig_kept n v late lateEntry t
  case acqTimeout n => exact acqExpire_kept n s
  case frequencyLock n => exact frequencyLock_kept n s
  case frequencyLoss n late lateEntry => exact frequencyLoss_kept n late lateEntry s
  case laneSymbol n p hd =>
    split
    · exact takeSymbol_kept n p hd s
    · exact .refl s
  case laneClearCounters n => exact dataWord_kept fun t => clearLaneCounters_kept n t
  case callWordSlot => exact beginSlot_kept s
  case bondConfigWrite b off v => exact dataWord_kept fun t => writeBondConfig_kept b off v t
  case start b => exact dataWord_kept fun t => takeStart_kept b t
  case stop b => exact dataWord_kept fun t => takeStop_kept b t
  case retrain b => exact dataWord_kept fun t => takeRetrain_kept b t
  case clearFault b => exact dataWord_kept fun t => takeClearFault_kept b t
  case clearCounters b => exact dataWord_kept fun t => takeClearCounters_kept b t
  case holdTimeout b => exact holdExpire_kept b s
  case callTimeout b => exact callExpire_kept b s
  case alignTimeout b => exact alignExpire_kept b s
  case epochEvent late => exact takeEpoch_kept late s
  case release b late => exact takeRelease_kept b late s
  case readSideSlot b reportFirst late => exact takeSlot_kept b reportFirst late s
  case seatComplete b late =>
    split
    · exact takeSlot_kept b false late s
    · exact .refl s
  case mendTimeout b => exact mendExpire_kept b s
  case snapshotRequest n trigger count => exact dataWord_kept fun t => snapRequest_kept n trigger count t
  case snapshotCancel => exact dataWord_kept fun t => snapCancel_kept t
  case snapshotTimeout => exact armingExpire_kept s
  case pendingClear g v => exact dataWord_kept fun t => clearPending_kept t g v
  case inspectionSelect v => exact dataWord_kept fun t => writeSelect_kept v t
  case registerWrite a v => exact dataWord_kept fun t => hostWrite_kept _ v t
  case transactionHeader w => exact takeHeader_kept w s
  case holdingCopyFill a => exact dataWord_kept fun t => readSlot_kept a t
  case readUnmapped a => exact dataWord_kept fun t => readSlot_kept a t
  case partialWord bits => exact partialWord_kept bits s
  case timestampCounterAdvance arrivals => exact advanceUnit_kept arrivals s
  case transactionEnd => exact modPort_kept s _

/-- A step is a tick, or the front command on the rest of the queue. -/
theorem step_cases {s t : State} (h : step s = .next t) :
    (s.pending = [] ∧ t = tick s) ∨ ∃ c rest, s.pending = c :: rest ∧ exec c { s with pending := rest } = .next t := by
  unfold step at h
  split at h
  · rename_i hp
    exact .inl ⟨hp, (Host.Outcome.next.inj h).symm⟩
  · rename_i c rest hp
    exact .inr ⟨c, rest, hp, h⟩

theorem step_kept {s t : State} (h : step s = .next t) : BlocksKept s t := by
  rcases step_cases h with ⟨-, rfl⟩ | ⟨c, rest, -, h⟩
  · exact tick_kept s
  · exact BlocksKept.trans (t := { s with pending := rest }) (blocksKept_of_eq rfl rfl rfl rfl rfl rfl) (exec_kept c _ t h)

/-! ## The obligations -/

/-- Settles O6: one block of what a step keeps. -/
theorem everyStepKeepsSnapshotBounds : Obligations.EveryStepKeepsSnapshotBounds := fun _ _ h hs => (step_kept hs).snap h

/-- Settles O7. -/
theorem everyStepKeepsBufferDepth : Obligations.EveryStepKeepsBufferDepth := fun _ _ h hs => (step_kept hs).depth h

/-- Settles O8. -/
theorem everyStepKeepsEntryRepeats : Obligations.EveryStepKeepsEntryRepeats := fun _ _ h hs => (step_kept hs).entries h

/-- Settles O9. -/
theorem everyStepKeepsLineWords : Obligations.EveryStepKeepsLineWords := fun _ _ h hs => (step_kept hs).line h

/-- Settles O10. -/
theorem everyStepKeepsRetrainsWithinLimit : Obligations.EveryStepKeepsRetrainsWithinLimit :=
  fun _ _ h hs => (step_kept hs).counts h

/-- Settles O11: the lanes and the monitor are one block, for a lane is legal under the reference. -/
theorem everyStepKeepsLaneReceivers : Obligations.EveryStepKeepsLaneReceivers := fun s t h hs =>
  (State.receiversOk_iff t).1 ((step_kept hs).receivers ((State.receiversOk_iff s).2 h))

end Sys2Proof.Machine

/-! The commands START, STOP and RETRAIN (R63, R67 to R70, R73, R74, R76). -/

namespace Sys2Proof.Machine

/-! ## Leaving a state -/

/-- The read side after its bond's departure: a sweep in progress is completed, otherwise it is IDLE (R118). -/
def ReadSide.departed (rd : ReadSide) (sweep : Nat) : ReadSide :=
  match rd.state with
  | .idle => rd
  | .completing => if rd.phase = 0 then ⟨.idle, 0, 0, false, false⟩ else rd
  | .reading => if rd.inSweep sweep then { rd with state := .completing, whole := false } else ⟨.idle, 0, 0, false, false⟩

theorem Bond.leaveRun_rd (bd : Bond) : bd.leaveRun.rd = bd.rd.departed bd.runSweep := by
  have hsweep : ∀ ra : Reassembly, ra.runShape = bd.ra.runShape → { bd with ra }.runSweep = bd.runSweep := fun ra h => by
    simp only [Bond.runSweep, h]
  cases h : bd.rd.state <;>
    simp [Bond.leaveRun, ReadSide.departed, h, Bond.readIdle, apply_ite Bond.rd, hsweep]

/-- The end of a mend does not bear on the read side's departure (R118, R139). -/
theorem Bond.endMend_leaveRun_rd (bd : Bond) : bd.endMend.leaveRun.rd = bd.rd.departed bd.runSweep := by
  rw [Bond.leaveRun_rd, bd.endMend_frame]
  rfl

theorem ReadSide.departed_completing {rd : ReadSide} (sweep : Nat) (h : rd.state = .completing) (hp : rd.phase ≠ 0) :
    rd.departed sweep = rd := by
  simp [ReadSide.departed, h, hp]

theorem ReadSide.departed_in_sweep {rd : ReadSide} {sweep : Nat} (h : rd.state = .reading) (hs : rd.inSweep sweep = true) :
    (rd.departed sweep).state = .completing := by
  simp [ReadSide.departed, h, hs]

theorem ReadSide.departed_between_sweeps {rd : ReadSide} {sweep : Nat} (h : rd.state = .reading)
    (hs : rd.inSweep sweep = false) : (rd.departed sweep).state = .idle ∧ (rd.departed sweep).phase = 0 := by
  simp [ReadSide.departed, h, hs]

theorem Bond.depart_settle (bd : Bond) : bd.endMend.leaveRun.stopTimers.settle = bd.settle := by
  unfold Bond.stopTimers
  rw [bd.endMend.leaveRun_frame, bd.endMend_frame]

/-! ## The result of a command -/

/-- The result of a command that gives no reason (R66). -/
theorem CmdResult.record_none (r : CmdResult) (c : Command) (k : ResultKind) (st : BondState) :
    r.record c k st none = ⟨some c, some k, some st, none, none, none, none, r.seq + 1⟩ := rfl

/-- A command whose one effect is its result (R66). -/
theorem writeResult_eq (b : BondId) (c : Command) (k : ResultKind) (st : BondState) (why : Option StartRefusal) (s : State) :
    writeResult b c k st why s = { s with bonds := s.bonds.set b { s.bonds.get b with
      result := (s.bonds.get b).result.record c k st why } } := rfl

/-! ## STOP -/

theorem takeStop_disabled {b : BondId} {s : State} (h : (s.bonds.get b).state = .disabled) :
    takeStop b s = writeResult b .stop .done .disabled none s := by
  simp only [takeStop, h, if_true]

theorem takeStop_active {b : BondId} {s : State} (h : (s.bonds.get b).state ≠ .disabled) :
    takeStop b s = writeResult b .stop .done (s.bonds.get b).state none (enterDisabled b s) := by
  simp only [takeStop, if_neg h]

/-- STOP moves its bond and the buffers that the bond names. -/
theorem takeStop_active_frame {b : BondId} {s : State} (h : (s.bonds.get b).state ≠ .disabled) :
    takeStop b s = { s with
        bonds := s.bonds.set b { (s.bonds.get b).toDisabled with
          result := (s.bonds.get b).result.record .stop .done (s.bonds.get b).state none }
        bufs := (s.clearBufs (s.bonds.get b).cfg.names).bufs } := by
  have hresult : (s.bonds.get b).toDisabled.result = (s.bonds.get b).result := (s.bonds.get b).toDisabled_left.result
  rw [takeStop_active h]
  simp [writeResult, enterDisabled, State.modBond, State.clearBufs, hresult]

/-- Settles O35: STOP is the departure of every state (`Bond.toDisabled_left`), with the read side's own part of it. -/
theorem stopTakesABondToDisabled : Obligations.StopTakesABondToDisabled := by
  intro b s x htakes
  refine ⟨fun hd => ?_, fun hactive => ?_⟩
  · exact congrArg Host.Outcome.next ((writeWord_of_takes (takeStop b) htakes).trans (takeStop_disabled hd))
  · obtain ⟨hcfg, hretrain, -, ⟨hfault, hcount⟩, ⟨hmends, hdrifts, hsweeps, hfill, htainted⟩, ⟨hsent, hseq, -, -, hgo⟩,
      hheld, -, hfailed, hmend, hcall, halign, hmendTimer⟩ := (s.bonds.get b).toDisabled_left
    have hrd : (s.bonds.get b).toDisabled.rd = (s.bonds.get b).rd.departed (s.bonds.get b).runSweep :=
      Bond.endMend_leaveRun_rd _
    have hflight : (s.bonds.get b).toDisabled.inFlight = (s.bonds.get b).inFlight := Bond.depart_inFlight _
    have hsettle : (s.bonds.get b).toDisabled.settle = (s.bonds.get b).settle := Bond.depart_settle _
    have hoffsets : ∀ i, (s.bonds.get b).toDisabled.offsets.get i = none := fun i => Eight.get_rep none i
    have hfixed : (s.bonds.get b).toDisabled.state = .disabled ∧ (s.bonds.get b).toDisabled.profile = none
        ∧ (s.bonds.get b).toDisabled.map = none ∧ (s.bonds.get b).toDisabled.holdTimer = .stopped
        ∧ (s.bonds.get b).toDisabled.rel.state = .idle := ⟨rfl, rfl, rfl, rfl, rfl⟩
    refine ⟨takeStop b (s.withTxn x), congrArg Host.Outcome.next (writeWord_of_takes (takeStop b) htakes), ?_⟩
    obtain ⟨hstate, hprofile, hmap, hhold, hrel⟩ := hfixed
    rw [takeStop_active_frame (s := s.withTxn x) hactive]
    simp only [Four.get_set, if_true, State.withTxn, State.clearBufs_get, hrd, hcfg]
    generalize (s.bonds.get b).toDisabled = q at *
    exact ⟨trivial, hstate, hprofile, hmap, by simp [Bond.callWord, Bond.tag, hstate, hprofile], hhold, hcall, halign,
      hmendTimer, rfl, trivial, hfault, hcount, hretrain, hsettle, hmends, hdrifts, hsweeps, hfill, htainted, hoffsets,
      hflight, hheld, hsent, hseq, hrel, hgo, fun h => (hfailed h).1, fun h => (hmend h).1,
      ReadSide.departed_completing _, ReadSide.departed_in_sweep, ReadSide.departed_between_sweeps, fun _ => rfl⟩

/-! ## START and RETRAIN -/

/-- A timer that starts from zero toward a limit other than 0 is not due (R76). -/
theorem Timer.ofMs_due {ms : BitVec 8} (h : ms ≠ 0) : (Timer.ofMs ms).due = false := by
  have hms : ms.toNat ≠ 0 := fun h0 => h (BitVec.eq_of_toNat_eq h0)
  simp only [Timer.ofMs, Timer.start, Timer.due, Config.ticksPerMs, decide_eq_false_iff_not]
  omega

theorem BondConfig.holdTimerStart_due (cfg : BondConfig) : cfg.holdTimerStart.due = false := by
  unfold BondConfig.holdTimerStart
  split
  · rfl
  · rename_i h
    exact Timer.ofMs_due h

/-- The bond of a command that enters HOLDING, from the bond `bd` that it sets up (R67, R70, R78, R80). -/
def Bond.commanded (bd : Bond) (c : Command) (st : BondState) (locked : Bool) (cleared : List Notice) : Bond :=
  { (if locked then bd.toHolding.toCalling.send cleared else bd.toHolding) with
    result := bd.result.record c .done st none }

/-- A command that sets its bond up and enters HOLDING: its bond, the buffers the bond names, and the entries of its members
where it goes on to CALLING (R67, R70, R78, R80, R121). -/
theorem writeResult_enterHolding (b : BondId) (c : Command) (st : BondState) {f : Bond → Bond} {s t : State}
    (ht : t = writeResult b c .done st none (enterHolding b (s.modBond b f)))
    (hcfg : (f (s.bonds.get b)).cfg = (s.bonds.get b).cfg) :
    t = { s with bonds := s.bonds.set b (t.bonds.get b), bufs := t.bufs, rolls := t.rolls }
    ∧ t.bonds.get b = (f (s.bonds.get b)).commanded c st (s.membersLocked b)
        (s.clearNotices (s.bonds.get b).cfg.isMember)
    ∧ (∀ n, t.bufs.get n = if (s.bonds.get b).cfg.names n then (s.bufs.get n).clear else s.bufs.get n)
    ∧ (∀ n, t.rolls.get n = if s.membersLocked b = true ∧ (s.bonds.get b).cfg.isMember n = true then
        (s.rolls.get n).clearEntry else s.rolls.get n) := by
  obtain ⟨hframe, hbufs, hrolls, hbond⟩ := enterHolding_effect b (s.modBond b f)
  have hlocked : (s.modBond b f).membersLocked b = s.membersLocked b := by simp [State.membersLocked, hcfg]
  have hnotices := State.clearNotices_congr (s := s) (t := s.modBond b f) rfl
  have hresult : (f (s.bonds.get b)).toHolding.result = (f (s.bonds.get b)).result := (Bond.toHolding_left _).result
  simp only [State.modBond_get, if_true, hcfg, hlocked, hnotices, State.modBond_bufs, State.modBond_rolls] at hbufs hrolls hbond
  refine ⟨?_, ?_, ?_, ?_⟩
  · subst ht
    rw [hframe]
    simp [writeResult, State.modBond]
  · subst ht
    simp only [writeResult, State.modBond_get, if_true, hbond, Bond.commanded]
    congr 1
    split
    · exact congrArg (fun r => CmdResult.record r c .done st none) hresult
    · exact congrArg (fun r => CmdResult.record r c .done st none) hresult
  · subst ht
    exact hbufs
  · subst ht
    exact hrolls

/-- What the bond of such a command is, whether it goes on to CALLING or not. -/
theorem Bond.commanded_fields (bd : Bond) (c : Command) (st : BondState) (locked : Bool) (cleared : List Notice) :
    let q := bd.commanded c st locked cleared
    q.state = (if locked then .calling else .holding) ∧ q.cfg = bd.cfg ∧ q.retrain = bd.retrain ∧ q.settle = 0
    ∧ q.profile = none ∧ q.map = none ∧ q.ra.held = bd.ra.held ∧ q.rel.state = .idle ∧ q.rel.go = bd.rel.go
    ∧ q.fault = bd.fault ∧ q.faultCount = bd.faultCount
    ∧ (bd.state = .mending → q.mend = bd.mend.map fun m => { m with outcome := .failed })
    ∧ (bd.state ≠ .mending → q.mend = bd.mend)
    ∧ (locked = false → q.holdTimer = bd.cfg.holdTimerStart)
    ∧ (locked = true → q.holdTimer = .stopped ∧ q.callTimer = .ofMs bd.cfg.callTimeout)
    ∧ (locked = false → q.callTimer = .stopped)
    ∧ q.alignTimer = .stopped ∧ q.mendTimer = .stopped
    ∧ q.inFlight = bd.inFlight ++ (if locked then cleared else []) ∧ q.result = bd.result.record c .done st none := by
  obtain ⟨hcfg, hretrain, -, ⟨hfault, hcount⟩, -, ⟨-, -, -, -, hgo⟩, hheld, -, hfailed, hmend, hcall, halign, hmendTimer⟩ :=
    bd.toHolding_left
  have hflight := bd.toHolding_inFlight
  have hhold : bd.toHolding.holdTimer = bd.cfg.holdTimerStart :=
    congrArg BondConfig.holdTimerStart bd.depart_keeps.cfg
  have hfixed : bd.toHolding.state = .holding ∧ bd.toHolding.profile = none ∧ bd.toHolding.map = none
      ∧ bd.toHolding.settle = 0 ∧ bd.toHolding.rel.state = .idle := ⟨rfl, rfl, rfl, rfl, rfl⟩
  obtain ⟨hstate, hprofile, hmap, hsettle, hrel⟩ := hfixed
  unfold Bond.commanded
  generalize bd.toHolding = q at *
  have hmends : (bd.state = .mending → q.mend = bd.mend.map fun m => { m with outcome := .failed })
    ∧ (bd.state ≠ .mending → q.mend = bd.mend) := ⟨fun h => (hfailed h).1, fun h => (hmend h).1⟩
  cases locked <;>
    simp [Bond.toCalling, Bond.send, hcfg, hretrain, hfault, hcount, hgo, hheld, hcall, halign, hmendTimer,
      hflight, hhold, hstate, hprofile, hmap, hsettle, hrel] <;> exact hmends

end Sys2Proof.Machine

/-! The START check: what each condition finds, and with it START, refused or not, and RETRAIN (R67, R68, R70). -/

namespace Sys2Proof.Machine

/-! ## The first in number order -/

/-- The first element that a search along a list in number order finds. -/
theorem findSome?_first {k : Nat} {α : Type} {l : List (Fin k)} (hl : l.Pairwise (· < ·)) {f : Fin k → Option α} {y : α}
    (h : l.findSome? f = some y) : ∃ n ∈ l, f n = some y ∧ ∀ m ∈ l, m < n → f m = none := by
  obtain ⟨before, n, after, rfl, hn, hbefore⟩ := List.findSome?_eq_some_iff.mp h
  refine ⟨n, by simp, hn, fun m hm hlt => ?_⟩
  rcases List.mem_append.mp hm with hm | hm
  · exact hbefore m hm
  · rcases List.mem_cons.mp hm with rfl | hm
    · exact absurd hlt (Fin.lt_irrefl _)
    · have hafter := (List.pairwise_cons.mp (List.pairwise_append.mp hl).2.1).1 m hm
      exact absurd hlt (Fin.lt_asymm hafter)

/-- The first element of a list in number order that passes a test. -/
theorem find?_first {k : Nat} {l : List (Fin k)} (hl : l.Pairwise (· < ·)) {p : Fin k → Bool} {n : Fin k}
    (h : l.find? p = some n) : n ∈ l ∧ p n = true ∧ ∀ m ∈ l, m < n → p m = false := by
  obtain ⟨hn, before, after, rfl, hbefore⟩ := List.find?_eq_some_iff_append.mp h
  refine ⟨by simp, hn, fun m hm hlt => ?_⟩
  rcases List.mem_append.mp hm with hm | hm
  · simpa using hbefore m hm
  · rcases List.mem_cons.mp hm with rfl | hm
    · exact absurd hlt (Fin.lt_irrefl _)
    · have hafter := (List.pairwise_cons.mp (List.pairwise_append.mp hl).2.1).1 m hm
      exact absurd hlt (Fin.lt_asymm hafter)

theorem allLanes_sorted : allLanes.Pairwise (· < ·) := by decide

theorem memberList_sorted (cfg : BondConfig) : cfg.memberList.Pairwise (· < ·) := allLanes_sorted.filter _

@[simp] theorem BondConfig.mem_memberList {cfg : BondConfig} {n : Lane} : n ∈ cfg.memberList ↔ cfg.isMember n = true := by
  simp [BondConfig.memberList, mem_allLanes]

/-! ## The conditions of the START check -/

theorem State.claimant_eq_none {s : State} {b : BondId} {n : Lane} :
    s.claimant b n = none ↔ ∀ c, c ≠ b → (s.bonds.get c).claims n = false := by
  simp [State.claimant, mem_allBonds]

theorem State.claimant_eq_some {s : State} {b c : BondId} {n : Lane} (h : s.claimant b n = some c) :
    c ≠ b ∧ (s.bonds.get c).claims n = true := by
  simpa using List.find?_some h

theorem State.laneTaken_eq_none {s : State} {b : BondId} :
    s.laneTaken b = none ↔ ∀ n c, c ≠ b → (s.bonds.get b).cfg.names n = true → (s.bonds.get c).claims n = false := by
  simp only [State.laneTaken, List.findSome?_eq_none_iff, List.mem_filter, mem_allLanes, true_and, Option.map_eq_none_iff,
    State.claimant_eq_none]
  exact ⟨fun h n c hc hn => h n hn c hc, fun h n hn c hc => h n c hc hn⟩

/-- The lane and bond of condition 2: the lowest-numbered lane that another bond claims (R68). -/
theorem State.laneTaken_eq_some {s : State} {b c : BondId} {n : Lane} (h : s.laneTaken b = some (n, c)) :
    c ≠ b ∧ (s.bonds.get b).cfg.names n = true ∧ (s.bonds.get c).claims n = true
      ∧ ∀ m, m < n → (s.bonds.get b).cfg.names m = true → ∀ c', c' ≠ b → (s.bonds.get c').claims m = false := by
  obtain ⟨m, hm, hclaim, hfirst⟩ := findSome?_first (allLanes_sorted.filter _) h
  obtain ⟨d, hd, heq⟩ := Option.map_eq_some_iff.mp hclaim
  obtain ⟨rfl, rfl⟩ := Prod.mk.inj heq
  obtain ⟨hne, hclaims⟩ := State.claimant_eq_some hd
  refine ⟨hne, (List.mem_filter.mp hm).2, hclaims, fun j hj hnames => ?_⟩
  have hnone := hfirst j (List.mem_filter.mpr ⟨mem_allLanes j, hnames⟩) hj
  exact State.claimant_eq_none.mp (Option.map_eq_none_iff.mp hnone)

theorem BondConfig.spareMember_eq_none {cfg : BondConfig} :
    cfg.spareMember = none ↔ ∀ n, cfg.spare = some n → cfg.isMember n = false := by
  simp [BondConfig.spareMember, Option.filter_eq_none_iff]

theorem BondConfig.spareMember_eq_some {cfg : BondConfig} {n : Lane} :
    cfg.spareMember = some n ↔ cfg.spare = some n ∧ cfg.isMember n = true := by
  simp [BondConfig.spareMember, Option.filter_eq_some_iff]

theorem State.memberOff_eq_none {s : State} {b : BondId} :
    s.memberOff b = none ↔ ∀ n, (s.bonds.get b).cfg.isMember n = true → (s.lanes.get n).enable = true := by
  simp [State.memberOff]

/-- The lane of condition 4: the lowest-numbered member whose enable is 0 (R68). -/
theorem State.memberOff_eq_some {s : State} {b : BondId} {n : Lane} (h : s.memberOff b = some n) :
    (s.bonds.get b).cfg.isMember n = true ∧ (s.lanes.get n).enable = false
      ∧ ∀ m, m < n → (s.bonds.get b).cfg.isMember m = true → (s.lanes.get m).enable = true := by
  obtain ⟨hmem, hoff, hfirst⟩ := find?_first (memberList_sorted _) h
  refine ⟨BondConfig.mem_memberList.mp hmem, by simpa using hoff, fun m hm hmember => ?_⟩
  simpa using hfirst m (BondConfig.mem_memberList.mpr hmember) hm

/-- A usable shape is one whose channels divide its sweep (R11). -/
theorem Shape.usable_iff (sh : Shape) : sh.usable = true ↔ sh.channels ∣ sh.lanes * sh.sweep := by
  simp [Shape.usable, Nat.dvd_iff_mod_eq_zero]

/-- No timing field is out of its range (R58). -/
theorem BondConfig.rangeFailure_eq_none {cfg : BondConfig} : cfg.rangeFailure = none ↔
    cfg.skewLimit.toNat ≤ 768 ∧ cfg.callTimeout ≠ 0 ∧ cfg.alignTimeout ≠ 0 ∧ cfg.mendTimeout ≠ 0
      ∧ cfg.retrainLimit.toNat ≤ 7 := by
  unfold BondConfig.rangeFailure
  have hskew : Config.maxSkewLimit = 768 := rfl
  have hretrain : Config.maxRetrainLimit = 7 := rfl
  rw [hskew, hretrain]
  split_ifs <;> simp_all

/-! ## The outcome of the check -/

/-- What a refused START has found: the first of the seven conditions, with what it names (R68). -/
inductive State.StartFails (s : State) (b : BondId) : StartRefusal → Prop where
  | noMembers (h : (s.bonds.get b).cfg.members = 0#8) : StartFails s b ⟨.noMembers, none, none, none⟩
  | laneTaken {n : Lane} {c : BondId} (hmembers : (s.bonds.get b).cfg.members ≠ 0#8) (h : s.laneTaken b = some (n, c)) :
      StartFails s b ⟨.laneTaken, some n, some c, none⟩
  | spareIsMember {n : Lane} (hmembers : (s.bonds.get b).cfg.members ≠ 0#8) (htaken : s.laneTaken b = none)
      (h : (s.bonds.get b).cfg.spareMember = some n) : StartFails s b ⟨.spareIsMember, some n, none, none⟩
  | memberOff {n : Lane} (hmembers : (s.bonds.get b).cfg.members ≠ 0#8) (htaken : s.laneTaken b = none)
      (hspare : (s.bonds.get b).cfg.spareMember = none) (h : s.memberOff b = some n) :
      StartFails s b ⟨.memberOff, some n, none, none⟩
  | startProfile {why : StartRefusal} (hmembers : (s.bonds.get b).cfg.members ≠ 0#8) (htaken : s.laneTaken b = none)
      (hspare : (s.bonds.get b).cfg.spareMember = none) (hoff : s.memberOff b = none)
      (h : (s.bonds.get b).cfg.startProfile = some why) : StartFails s b why

theorem State.startCheck_eq_some {s : State} {b : BondId} {why : StartRefusal} (h : s.startCheck b = some why) :
    s.StartFails b why := by
  unfold State.startCheck at h
  dsimp only at h
  split at h
  · rename_i hmembers
    exact Option.some.inj h ▸ .noMembers hmembers
  · rename_i hmembers
    split at h
    · rename_i n c htaken
      exact Option.some.inj h ▸ .laneTaken hmembers htaken
    · rename_i htaken
      split at h
      · rename_i n hspare
        exact Option.some.inj h ▸ .spareIsMember hmembers htaken hspare
      · rename_i hspare
        split at h
        · rename_i n hoff
          exact Option.some.inj h ▸ .memberOff hmembers htaken hspare hoff
        · rename_i hoff
          exact .startProfile hmembers htaken hspare hoff h

theorem BondConfig.startProfile_eq_none {cfg : BondConfig} : cfg.startProfile = none ↔
    ¬ (cfg.matchMode = .exact ∧ cfg.expShape.lanes ≠ cfg.memberList.length)
      ∧ ¬ (cfg.matchMode = .exact ∧ cfg.expShape.usable = false) ∧ cfg.rangeFailure = none := by
  unfold BondConfig.startProfile
  split_ifs with hcount husable
  · exact ⟨nofun, fun h => absurd hcount h.1⟩
  · exact ⟨nofun, fun h => absurd husable h.2.1⟩
  · exact ⟨fun h => ⟨hcount, husable, Option.map_eq_none_iff.mp h⟩, fun h => Option.map_eq_none_iff.mpr h.2.2⟩

/-- The condition of 5 to 7 that a refusal names (R68). -/
theorem BondConfig.startProfile_eq_some {cfg : BondConfig} {why : StartRefusal} (h : cfg.startProfile = some why) :
    ((cfg.matchMode = .exact ∧ cfg.expShape.lanes ≠ cfg.memberList.length) ∧ why = ⟨.countMismatch, none, none, none⟩)
    ∨ (¬ (cfg.matchMode = .exact ∧ cfg.expShape.lanes ≠ cfg.memberList.length)
      ∧ (cfg.matchMode = .exact ∧ cfg.expShape.usable = false) ∧ why = ⟨.profileUnusable, none, none, none⟩)
    ∨ (¬ (cfg.matchMode = .exact ∧ cfg.expShape.lanes ≠ cfg.memberList.length)
      ∧ ¬ (cfg.matchMode = .exact ∧ cfg.expShape.usable = false)
      ∧ ∃ f, cfg.rangeFailure = some f ∧ why = ⟨.timingRange, none, none, some f⟩) := by
  unfold BondConfig.startProfile at h
  split_ifs at h with hcount husable
  · exact .inl ⟨hcount, (Option.some.inj h).symm⟩
  · exact .inr (.inl ⟨hcount, husable, (Option.some.inj h).symm⟩)
  · obtain ⟨f, hf, hwhy⟩ := Option.map_eq_some_iff.mp h
    exact .inr (.inr ⟨hcount, husable, f, hf, hwhy.symm⟩)

/-- A START passes where none of the seven conditions holds (R68). -/
theorem State.startCheck_eq_none {s : State} {b : BondId} : s.startCheck b = none ↔
    (s.bonds.get b).cfg.members ≠ 0 ∧ s.laneTaken b = none ∧ (s.bonds.get b).cfg.spareMember = none
      ∧ s.memberOff b = none ∧ (s.bonds.get b).cfg.startProfile = none := by
  unfold State.startCheck
  dsimp only
  split
  · rename_i hmembers
    exact ⟨nofun, fun h => absurd hmembers h.1⟩
  · rename_i hmembers
    cases s.laneTaken b with
    | some p => simp
    | none =>
      cases (s.bonds.get b).cfg.spareMember with
      | some n => simp
      | none => cases s.memberOff b <;> simp [show ¬ (s.bonds.get b).cfg.members = 0#8 from hmembers]

/-! ## START -/

theorem takeStart_elsewhere {b : BondId} {s : State} (h : (s.bonds.get b).state ≠ .disabled) :
    takeStart b s = writeResult b .start .refusedState (s.bonds.get b).state none s := by
  simp only [takeStart, if_neg h]

theorem takeStart_refused {b : BondId} {s : State} {why : StartRefusal} (h : (s.bonds.get b).state = .disabled)
    (hwhy : s.startCheck b = some why) : takeStart b s = writeResult b .start .refusedConfig .disabled (some why) s := by
  simp only [takeStart, h, if_true, hwhy]

theorem takeStart_passed {b : BondId} {s : State} (h : (s.bonds.get b).state = .disabled)
    (hpass : s.startCheck b = none) :
    takeStart b s = writeResult b .start .done .disabled none (enterHolding b (s.modBond b Bond.started)) := by
  simp only [takeStart, h, if_true, hpass]

/-- Settles O33: the refusal is the first condition that the check finds (`State.StartFails`), and each condition of the
statement is one of the check's. -/
theorem startIsRefusedByTheFirstReason : Obligations.StartIsRefusedByTheFirstReason := by
  intro b s x htakes
  have hexec : exec (.start b) s = .next (takeStart b (s.withTxn x)) :=
    congrArg Host.Outcome.next (writeWord_of_takes (takeStart b) htakes)
  dsimp only
  refine ⟨fun hactive => hexec.trans (congrArg Host.Outcome.next (takeStart_elsewhere hactive)), fun hdisabled hsome => ?_⟩
  have htaken : (∃ n c, c ≠ b ∧ (s.bonds.get b).cfg.names n = true ∧ (s.bonds.get c).claims n = true)
      ↔ s.laneTaken b ≠ none := by
    rw [Ne, State.laneTaken_eq_none]; simp
  have hspare : (∃ n, (s.bonds.get b).cfg.spare = some n ∧ (s.bonds.get b).cfg.isMember n = true)
      ↔ (s.bonds.get b).cfg.spareMember ≠ none := by
    rw [Ne, BondConfig.spareMember_eq_none]; simp
  have hoff : (∃ n, (s.bonds.get b).cfg.isMember n = true ∧ (s.lanes.get n).enable = false) ↔ s.memberOff b ≠ none := by
    rw [Ne, State.memberOff_eq_none]; simp
  have husable : (¬ (s.bonds.get b).cfg.expShape.channels ∣ (s.bonds.get b).cfg.expShape.lanes * (s.bonds.get b).cfg.expShape.sweep)
      ↔ (s.bonds.get b).cfg.expShape.usable = false := by
    rw [← Shape.usable_iff, Bool.not_eq_true]
  have htiming : (768 < (s.bonds.get b).cfg.skewLimit.toNat ∨ (s.bonds.get b).cfg.callTimeout = 0
      ∨ (s.bonds.get b).cfg.alignTimeout = 0 ∨ (s.bonds.get b).cfg.mendTimeout = 0
      ∨ 7 < (s.bonds.get b).cfg.retrainLimit.toNat) ↔ (s.bonds.get b).cfg.rangeFailure ≠ none := by
    rw [Ne, BondConfig.rangeFailure_eq_none]; simp only [not_and_or, not_le, ne_eq, not_not]
  have hprofile : (s.bonds.get b).cfg.startProfile ≠ none ↔
      ((s.bonds.get b).cfg.matchMode = .exact ∧ (s.bonds.get b).cfg.expShape.lanes ≠ (s.bonds.get b).cfg.memberList.length)
      ∨ ((s.bonds.get b).cfg.matchMode = .exact ∧ (s.bonds.get b).cfg.expShape.usable = false)
      ∨ (s.bonds.get b).cfg.rangeFailure ≠ none := by
    rw [Ne, BondConfig.startProfile_eq_none, not_and_or, not_not, not_and_or, not_not]
  simp only [htaken, hspare, hoff, husable, htiming] at hsome ⊢
  obtain ⟨why, hwhy⟩ : ∃ why, s.startCheck b = some why := Option.ne_none_iff_exists'.mp fun hpass => by
    obtain ⟨hmembers, hnone, hspareNone, hoffNone, hprofileNone⟩ := State.startCheck_eq_none.mp hpass
    simp only [← hprofile, hmembers, hnone, hspareNone, hoffNone, hprofileNone, ne_eq, not_true, or_false] at hsome
  refine ⟨_, _, hexec.trans (congrArg Host.Outcome.next (takeStart_refused hdisabled hwhy)), rfl, rfl, rfl, rfl, rfl, ?_⟩
  cases State.startCheck_eq_some hwhy with
  | noMembers h => simp [h, CmdResult.record]
  | laneTaken hmembers h => simpa [hmembers, h, CmdResult.record] using State.laneTaken_eq_some h
  | spareIsMember hmembers hnone h =>
    simp [hmembers, hnone, h, CmdResult.record, (BondConfig.spareMember_eq_some.mp h).1]
  | memberOff hmembers hnone hspareNone h =>
    simpa [hmembers, hnone, hspareNone, h, CmdResult.record] using State.memberOff_eq_some h
  | startProfile hmembers hnone hspareNone hoffNone h =>
    rcases BondConfig.startProfile_eq_some h with ⟨hcount, rfl⟩ | ⟨hcount, hunusable, rfl⟩ | ⟨hcount, hunusable, f, hf, rfl⟩
    · simp [hmembers, hnone, hspareNone, hoffNone, hcount, CmdResult.record]
    · simp [hmembers, hnone, hspareNone, hoffNone, hunusable, CmdResult.record]
      exact not_not.mp fun hne => hcount ⟨hunusable.1, hne⟩
    · simp [hmembers, hnone, hspareNone, hoffNone, hcount, hunusable, hf, CmdResult.record]

theorem clearNotices_eq (s : State) (p : Lane → Bool) : s.clearNotices p =
    (allLanes.filter fun n => p n && (s.rolls.get n).entry.status != .empty).map fun n => .entryStatus n .empty := rfl

/-- The hold timer of an entry to HOLDING, in ticks (R76). -/
theorem BondConfig.holdTimerStart_eq (cfg : BondConfig) : cfg.holdTimerStart =
    if cfg.holdTimeout = 0 then .stopped else .running 0 (cfg.holdTimeout.toNat * 1000) := rfl

/-- Settles O34: START is the entry to HOLDING of the bond with its counts set to 0 (`writeResult_enterHolding`). -/
theorem startPassesIntoHolding : Obligations.StartPassesIntoHolding := by
  intro b s x htakes hdisabled hmembers htaken hspare henabled hcount husable hskew hcall halign hmend hretrain
  have hpass : (s.withTxn x).startCheck b = none := State.startCheck_eq_none.mpr
    ⟨hmembers, State.laneTaken_eq_none.mpr fun n c hc => htaken n c hc, BondConfig.spareMember_eq_none.mpr hspare,
      State.memberOff_eq_none.mpr henabled, BondConfig.startProfile_eq_none.mpr ⟨fun h => h.2 (hcount h.1),
        fun h => Bool.eq_false_iff.mp h.2 ((Shape.usable_iff _).mpr (husable h.1)),
        BondConfig.rangeFailure_eq_none.mpr ⟨hskew, hcall, halign, hmend, hretrain⟩⟩⟩
  refine ⟨takeStart b (s.withTxn x), congrArg Host.Outcome.next (writeWord_of_takes (takeStart b) htakes), ?_⟩
  obtain ⟨hframe, hbond, hbufs, hrolls⟩ :=
    writeResult_enterHolding b .start .disabled (s := s.withTxn x) (takeStart_passed hdisabled hpass) rfl
  obtain ⟨hstate, hcfg, hzero, hsettle, hprofile, hmap, hheld, hidle, hgo, hfault, hcounted, -, hkept, hhold, hcalling, -, -,
    -, hflight, hresult⟩ := Bond.commanded_fields ((s.withTxn x).bonds.get b).started .start .disabled ((s.withTxn x).membersLocked b)
      ((s.withTxn x).clearNotices ((s.withTxn x).bonds.get b).cfg.isMember)
  have hactive : ((s.withTxn x).bonds.get b).started.state ≠ .mending := by
    have hstarted : ((s.withTxn x).bonds.get b).started.state = .disabled := hdisabled
    rw [hstarted]
    exact nofun
  rw [← hbond] at *
  refine ⟨hframe, hstate, hcfg, hzero, hsettle, hprofile, hmap, hheld, hidle, hgo, hresult, hfault, hcounted,
    hkept hactive, ?_, fun h => ?_, ?_, hflight, ?_⟩
  · rw [hcfg]; exact hhold
  · rw [hcfg]; exact hcalling h
  · rw [hcfg]; exact hbufs
  · rw [hcfg]; exact hrolls

/-! ## The expiries that do not happen -/

theorem holdExpire_self {b : BondId} {s : State} (h : (s.bonds.get b).state ≠ .holding ∨ (s.bonds.get b).holdTimer.due = false) :
    holdExpire b s = s := by
  rcases h with h | h <;> simp [holdExpire, h]

theorem callExpire_self {b : BondId} {s : State} (h : (s.bonds.get b).state ≠ .calling ∨ (s.bonds.get b).callTimer.due = false) :
    callExpire b s = s := by
  rcases h with h | h <;> simp [callExpire, h]

theorem alignExpire_self {b : BondId} {s : State}
    (h : (s.bonds.get b).state ≠ .aligning ∨ (s.bonds.get b).alignTimer.due = false) : alignExpire b s = s := by
  rcases h with h | h <;> simp [alignExpire, h]

theorem mendExpire_self {b : BondId} {s : State} (h : (s.bonds.get b).state ≠ .mending ∨ (s.bonds.get b).mendTimer.due = false) :
    mendExpire b s = s := by
  rcases h with h | h <;> simp [mendExpire, h]

/-! ## RETRAIN -/

theorem takeRetrain_disabled {b : BondId} {s : State} (h : (s.bonds.get b).state = .disabled) :
    takeRetrain b s = writeResult b .retrain .refusedState .disabled none s := by
  simp only [takeRetrain, h, if_true]

theorem takeRetrain_active {b : BondId} {s : State} (h : (s.bonds.get b).state ≠ .disabled) :
    takeRetrain b s = writeResult b .retrain .done (s.bonds.get b).state none
      (enterHolding b (s.modBond b fun bd => { bd with retrain := 0, settle := 0 })) := by
  simp only [takeRetrain, if_neg h]

/-- Settles O36: RETRAIN is the entry to HOLDING of the bond with its counts set to 0, and no timer of a bond that has just
entered HOLDING or CALLING has counted to its limit. -/
theorem retrainTakesABondToHolding : Obligations.RetrainTakesABondToHolding := by
  intro b s x htakes
  have hexec : exec (.retrain b) s = .next (takeRetrain b (s.withTxn x)) :=
    congrArg Host.Outcome.next (writeWord_of_takes (takeRetrain b) htakes)
  refine ⟨fun hdisabled => hexec.trans (congrArg Host.Outcome.next (takeRetrain_disabled hdisabled)), fun hactive => ?_⟩
  refine ⟨takeRetrain b (s.withTxn x), hexec, ?_⟩
  obtain ⟨hframe, hbond, hbufs, hrolls⟩ :=
    writeResult_enterHolding b .retrain _ (s := s.withTxn x) (takeRetrain_active hactive) rfl
  obtain ⟨hstate, hcfg, hretrain, hsettle, hprofile, hmap, -, -, -, hfault, hcounted, hfailed, -, hhold, hcalling, hstopped,
    halign, hmend, hflight, hresult⟩ := Bond.commanded_fields { (s.withTxn x).bonds.get b with retrain := 0, settle := 0 }
      .retrain ((s.withTxn x).bonds.get b).state ((s.withTxn x).membersLocked b)
      ((s.withTxn x).clearNotices ((s.withTxn x).bonds.get b).cfg.isMember)
  rw [← hbond] at *
  generalize takeRetrain b (s.withTxn x) = t at *
  refine ⟨hframe, hstate, hretrain, hsettle, hprofile, hmap, hcfg, hresult, hfault, hcounted, hfailed, ?_, ?_, hflight, ?_,
    fun h => ?_, halign, hmend, fun htimeout => ⟨?_, ?_, ?_, ?_⟩⟩
  · rw [hcfg]; exact hhold
  · rw [hcfg]; exact hbufs
  · rw [hcfg]; exact hrolls
  · rw [hcfg]; exact hcalling h
  · refine congrArg Host.Outcome.next (holdExpire_self ?_)
    cases hl : (s.withTxn x).membersLocked b
    · exact .inr (by rw [hhold hl]; exact BondConfig.holdTimerStart_due _)
    · exact .inr (by rw [(hcalling hl).1]; rfl)
  · refine congrArg Host.Outcome.next (callExpire_self ?_)
    cases hl : (s.withTxn x).membersLocked b
    · exact .inr (by rw [hstopped hl]; rfl)
    · exact .inr (by rw [(hcalling hl).2]; exact Timer.ofMs_due htimeout)
  · exact congrArg Host.Outcome.next (alignExpire_self (.inr (by rw [halign]; rfl)))
  · exact congrArg Host.Outcome.next (mendExpire_self (.inr (by rw [hmend]; rfl)))

end Sys2Proof.Machine

/-! The expiries of the bond timers, and the slots of a read side (R76, R79, R86, R87, R112 to R118, R126, R136, R142 to
R150). -/

namespace Sys2Proof.Machine

/-! ## The bond timers -/

theorem holdExpire_due {b : BondId} {s : State} (h : (s.bonds.get b).state = .holding)
    (hdue : (s.bonds.get b).holdTimer.due = true) : holdExpire b s = takeFault b .holdTimeout
      ((s.bonds.get b).cfg.memberList.find? fun n => (s.lanes.get n).mode != .locked) none none s := by
  simp [holdExpire, h, hdue]

theorem callExpire_due {b : BondId} {s : State} (h : (s.bonds.get b).state = .calling)
    (hdue : (s.bonds.get b).callTimer.due = true) : callExpire b s = takeFault b .callTimeout
      ((s.bonds.get b).cfg.memberList.find? fun n => (s.rolls.get n).entry.status != .confirmed) none none s := by
  simp [callExpire, h, hdue]

theorem alignExpire_due {b : BondId} {s : State} (h : (s.bonds.get b).state = .aligning)
    (hdue : (s.bonds.get b).alignTimer.due = true) : alignExpire b s = takeFault b .alignTimeout
      ((s.bonds.get b).unmarkedIndex.bind (s.bonds.get b).laneOf) (s.bonds.get b).unmarkedIndex none s := by
  simp [alignExpire, h, hdue]

theorem mendExpire_due {b : BondId} {s : State} {m : MendRec} (h : (s.bonds.get b).state = .mending)
    (hdue : (s.bonds.get b).mendTimer.due = true) (hm : (s.bonds.get b).mend = some m) :
    mendExpire b s = takeFault b .mendTimeout (some m.joining) (some m.k) none s := by
  simp [mendExpire, h, hdue, hm]

/-- The lowest-numbered member that fails a test. -/
theorem BondConfig.firstMember_eq_some {cfg : BondConfig} {p : Lane → Bool} {n : Lane}
    (h : cfg.memberList.find? p = some n) :
    cfg.isMember n = true ∧ p n = true ∧ ∀ m, m < n → cfg.isMember m = true → p m = false := by
  obtain ⟨hmem, hp, hfirst⟩ := find?_first (memberList_sorted cfg) h
  exact ⟨BondConfig.mem_memberList.mp hmem, hp, fun m hm hmember => hfirst m (BondConfig.mem_memberList.mpr hmember) hm⟩

theorem indicesBelow_sorted (l : Nat) : (indicesBelow l).Pairwise (· < ·) :=
  (show allIndices.Pairwise (· < ·) by decide).filter _

theorem Bond.unmarkedIndex_eq_some {bd : Bond} {i : Index} (h : bd.unmarkedIndex = some i) :
    i.val < bd.laneCount ∧ bd.rel.arrivals.get i = none ∧ ∀ j, j < i → (bd.rel.arrivals.get j).isSome = true := by
  obtain ⟨hmem, hnone, hfirst⟩ := find?_first (indicesBelow_sorted _) h
  have hi := mem_indicesBelow.mp hmem
  refine ⟨hi, by simpa using hnone, fun j hj => ?_⟩
  have hbelow : j ∈ indicesBelow bd.laneCount := mem_indicesBelow.mpr (Nat.lt_trans hj hi)
  simpa [Option.isSome_iff_ne_none] using hfirst j hbelow hj

theorem Bond.unmarkedIndex_eq_none {bd : Bond} (h : bd.unmarkedIndex = none) :
    ∀ i : Index, i.val < bd.laneCount → (bd.rel.arrivals.get i).isSome = true := by
  intro i hi
  simpa [Option.isSome_iff_ne_none] using List.find?_eq_none.mp h i (mem_indicesBelow.mpr hi)

/-- Settles O39: an expiry is a fault (`takeFault_taken`), and what it names is the first that a search finds. -/
theorem bondTimeoutsAreFaults : Obligations.BondTimeoutsAreFaults := by
  intro b s
  refine ⟨fun hstate hdue => ?_, fun h => congrArg Host.Outcome.next (holdExpire_self h), fun hstate hdue => ?_,
    fun h => congrArg Host.Outcome.next (callExpire_self h), fun hstate hdue => ?_,
    fun h => congrArg Host.Outcome.next (alignExpire_self h), fun m hstate hdue hm => ?_,
    fun h => congrArg Host.Outcome.next (mendExpire_self h)⟩
  · refine ⟨_, _, congrArg Host.Outcome.next (holdExpire_due hstate hdue), takeFault_taken b _ _ _ _ s, fun n hn => ?_,
      fun hnone => ?_⟩
    · simpa using BondConfig.firstMember_eq_some hn
    · simpa [State.membersLocked] using hnone
  · refine ⟨_, _, congrArg Host.Outcome.next (callExpire_due hstate hdue), takeFault_taken b _ _ _ _ s, fun n hn => ?_,
      fun hnone => ?_⟩
    · simpa using BondConfig.firstMember_eq_some hn
    · simpa [State.membersConfirmed] using hnone
  · exact ⟨_, _, congrArg Host.Outcome.next (alignExpire_due hstate hdue), takeFault_taken b _ _ _ _ s,
      fun i hi => Bond.unmarkedIndex_eq_some hi, Bond.unmarkedIndex_eq_none⟩
  · exact ⟨_, congrArg Host.Outcome.next (mendExpire_due hstate hdue hm), takeFault_taken b _ _ _ _ s⟩

/-! ## The slot of a unit time -/

theorem takeSlot_taken {b : BondId} {first late : Bool} {s : State} (h : (s.bonds.get b).rd.slotTaken = true) :
    takeSlot b first late s = s := by
  simp [takeSlot, h]

theorem takeSlot_noSeat {b : BondId} {first late : Bool} {s : State} (h : (s.bonds.get b).rd.slotTaken = false)
    (hseat : s.seatDue b = false) : takeSlot b first late s = readSlotNow b first late s := by
  simp [takeSlot, h, hseat]

theorem takeSlot_seat {b : BondId} {first late : Bool} {s : State} (h : (s.bonds.get b).rd.slotTaken = false)
    (hseat : s.seatDue b = true) : takeSlot b first late s = readSlotNow b first late (completeSeat b s) := by
  simp [takeSlot, h, hseat]

/-- A seat is due in MENDING alone, at a read of this unit time in READING. -/
theorem State.seatDue_iff {s : State} {b : BondId} : s.seatDue b = true ↔ (s.bonds.get b).state = .mending
    ∧ (s.bonds.get b).seat = some s.timestamp ∧ (s.bonds.get b).rd.state = .reading
    ∧ (s.bonds.get b).rd.slotTaken = false := by
  simp [State.seatDue, and_assoc]

theorem State.seatDue_of_not_mending {s : State} {b : BondId} (h : (s.bonds.get b).state ≠ .mending) :
    s.seatDue b = false := Bool.eq_false_iff.mpr fun hdue => h (State.seatDue_iff.mp hdue).1

theorem State.seatDue_of_not_reading {s : State} {b : BondId} (h : (s.bonds.get b).rd.state ≠ .reading) :
    s.seatDue b = false := Bool.eq_false_iff.mpr fun hdue => h (State.seatDue_iff.mp hdue).2.2.1

theorem readSlotNow_idle {b : BondId} {first late : Bool} {s : State} (h : (s.bonds.get b).rd.state = .idle) :
    readSlotNow b first late s = s := by
  unfold readSlotNow
  dsimp only
  split
  · rfl
  · simp [h]

theorem readSlotNow_gap {b : BondId} {first late : Bool} {s : State} {sh : Shape} (hshape : (s.bonds.get b).ra.runShape = some sh)
    (h : (s.bonds.get b).rd.state = .reading) (hphase : (s.bonds.get b).rd.phase = 0) :
    readSlotNow b first late s = gapSlot b sh late s := by
  simp [readSlotNow, hshape, h, hphase]

theorem readSlotNow_row {b : BondId} {first late : Bool} {s : State} {sh : Shape} {j : Nat}
    (hshape : (s.bonds.get b).ra.runShape = some sh) (h : (s.bonds.get b).rd.state = .reading)
    (hphase : (s.bonds.get b).rd.phase = j + 1) : readSlotNow b first late s = rowSlot b sh j first late s := by
  simp [readSlotNow, hshape, h, hphase]

theorem readSlotNow_fill {b : BondId} {first late : Bool} {s : State} {sh : Shape} {j : Nat}
    (hshape : (s.bonds.get b).ra.runShape = some sh) (h : (s.bonds.get b).rd.state = .completing)
    (hphase : (s.bonds.get b).rd.phase = j + 1) : readSlotNow b first late s = fillSlot b sh j late s := by
  simp [readSlotNow, hshape, h, hphase]

theorem readSlotNow_waiting {b : BondId} {first late : Bool} {s : State} (h : (s.bonds.get b).rd.state = .completing)
    (hphase : (s.bonds.get b).rd.phase = 0) : readSlotNow b first late s = s := by
  unfold readSlotNow
  dsimp only
  split
  · rfl
  · simp [h, hphase]

/-- Settles O45. -/
theorem gapSlotTakesOneEntryFromEachReadLane : Obligations.GapSlotTakesOneEntryFromEachReadLane := by
  intro b first late s sh
  refine ⟨fun h => congrArg Host.Outcome.next ?_, fun hreading hslot hphase hshape hseat hfull => ?_⟩
  · rcases h with hidle | htaken
    · cases hslot : (s.bonds.get b).rd.slotTaken
      · rw [takeSlot_noSeat hslot (State.seatDue_of_not_reading (by simp [hidle])), readSlotNow_idle hidle]
      · exact takeSlot_taken hslot
    · exact takeSlot_taken htaken
  · have hgap := (takeSlot_noSeat (first := first) (late := late) hslot hseat).trans
      ((readSlotNow_gap hshape hreading hphase).trans (gapSlot_full hfull))
    refine ⟨_, congrArg Host.Outcome.next hgap, rfl, s.popReadLanes_get b sh.lanes⟩

/-! ## Read slots -/

/-- The read lanes of the first L indices of a bond that is not MENDING, each on a lane that is not withdrawn. -/
theorem State.handed_of_map {s : State} {b : BondId} {l : Nat} {f : Index → Word × Bool}
    (hstate : (s.bonds.get b).state ≠ .mending)
    (h : ∀ i : Index, i.val < l → ∃ n rest, (s.bonds.get b).laneOf i = some n
      ∧ (s.bonds.get b).rd.withdrawn.getLsbD n.val = false ∧ (s.bufs.get n).entries = .unit (f i).1 (f i).2 :: rest) :
    ∀ i : Index, i.val < l → ∃ n rest, (s.bonds.get b).readLane i = some n
      ∧ (s.bufs.get n).entries = .unit (f i).1 (f i).2 :: rest := by
  intro i hi
  obtain ⟨n, rest, hlane, hwithdrawn, hentries⟩ := h i hi
  have hmended : (s.bonds.get b).mendedIndex ≠ some i := by
    unfold Bond.mendedIndex
    split
    · contradiction
    all_goals exact nofun
  exact ⟨n, rest, Bond.readLane_eq hmended hlane hwithdrawn, hentries⟩

/-- A read lane is the lane of its index. -/
theorem Bond.laneOf_of_readLane {bd : Bond} {i : Index} {n : Lane} (h : bd.readLane i = some n) : bd.laneOf i = some n := by
  unfold Bond.readLane at h
  split at h
  · contradiction
  · obtain ⟨m, hm, hn⟩ := Option.bind_eq_some_iff.mp h
    split at hn
    · contradiction
    · exact hm.trans hn

/-- The buffer of an index's lane after its head has left. -/
theorem State.popReadLanes_head {s : State} {b : BondId} {l : Nat} {i : Index} {n m : Lane} (hi : i.val < l)
    (hread : (s.bonds.get b).readLane i = some m) (hn : (s.bonds.get b).laneOf i = some n) :
    ((s.popReadLanes b l).bufs.get n).entries = (s.bufs.get n).entries.tail := by
  obtain rfl : m = n := Option.some.inj ((Bond.laneOf_of_readLane hread).symm.trans hn)
  rw [State.popReadLanes_get, if_pos (Bond.mem_readLanes.mpr ⟨i, hi, hread⟩)]

/-- The buffer of a lane that carries none of the first L indices stays. -/
theorem State.popReadLanes_other {s : State} {b : BondId} {l : Nat} {n : Lane}
    (h : ∀ i : Index, i.val < l → (s.bonds.get b).laneOf i ≠ some n) : (s.popReadLanes b l).bufs.get n = s.bufs.get n := by
  rw [State.popReadLanes_get, if_neg fun hmem => ?_]
  obtain ⟨i, hi, hread⟩ := Bond.mem_readLanes.mp hmem
  exact h i hi (Bond.laneOf_of_readLane hread)

theorem Bond.countsRunning_not_mending {bd : Bond} (h : bd.countsRunning = true) : bd.state ≠ .mending := by
  intro hm
  simp [Bond.countsRunning, hm] at h

/-- The sweep's wholeness after a slot of a bond that counts as RUNNING (R115). -/
theorem Bond.wholeAt_running {bd : Bond} (j : Nat) (h : bd.countsRunning = true) :
    bd.wholeAt j = decide (j = 0 ∨ bd.rd.whole = true) := by
  simp [Bond.wholeAt, h, beq_eq_decide]

/-- Settles O46: the slot's row by `Bond.presentRow_presented`, the buffers by `State.popReadLanes_get`. -/
theorem runningReadSlotPresentsARow : Obligations.RunningReadSlotPresentsARow := by
  intro b first late s sh j f bd hcounts hreading hslot hphase hlt hshape hheld hlanes
  have hmending := Bond.countsRunning_not_mending hcounts
  have hread := State.handed_of_map hmending hlanes
  have hrow := (takeSlot_noSeat (first := first) (late := late) hslot (State.seatDue_of_not_mending hmending)).trans
    ((readSlotNow_row hshape hreading hphase).trans (rowSlot_full (Nat.ne_of_lt hlt) (State.readLanes_full hread)))
  rw [State.handedRow_eq hread] at hrow
  refine ⟨_, _, congrArg Host.Outcome.next hrow, ?_, Bond.presentRow_presented hcounts hshape hheld, rfl, rfl,
    fun i n hi hn => ?_, fun n hn => State.popReadLanes_other hn⟩
  · rw [← Bond.wholeAt_running j hcounts]
    rfl
  · obtain ⟨m, rest, hm, -⟩ := hread i hi
    exact State.popReadLanes_head hi hm hn

/-! ## The last read slot of a sweep -/

/-- A notice of a sender with nothing else of it on its way is taken now. -/
theorem tell_taken {s : State} {b : BondId} {x : Notice} (h : s.inFlightFrom b x.sender = false) :
    s.tell b x false = bondTakes b x s := by
  refine tell_now fun y hy heq => ?_
  have hany : s.inFlightFrom b x.sender = true := List.any_eq_true.mpr ⟨y, hy, by simp [heq]⟩
  rw [h] at hany
  exact Bool.noConfusion hany

/-- A slot's row stays presented as its sweep is counted (R154). -/
theorem RowPresented.countSweep {bd q : Bond} {sh : Shape} {j : Nat} {f : Index → Word × Bool}
    (h : RowPresented bd sh j f q.ra) : RowPresented bd sh j f q.countSweep.ra :=
  ⟨h.valid, h.cut, h.filled, h.runShape⟩

theorem Bond.countSweep_counters (bd : Bond) : bd.countSweep.ra.sweeps = bd.ra.sweeps + 1
    ∧ (bd.countSweep.ra.validRows = true → bd.countSweep.ra.fillSweeps = bd.ra.fillSweeps)
    ∧ (bd.countSweep.ra.validRows = false → bd.countSweep.ra.fillSweeps = satInc bd.ra.fillSweeps) :=
  ⟨rfl, fun h => if_pos h, fun h => if_neg (Bool.eq_false_iff.mp h)⟩

/-- What a sweep-completed notice does to a bond in RUNNING (R90). -/
theorem Bond.settleSweep_running {bd : Bond} (whole : Bool) (h : bd.state = .running) :
    bd.settleSweep whole = { bd with settle := (bd.settleSweep whole).settle, retrain := (bd.settleSweep whole).retrain }
    ∧ (whole = true → bd.settle < 4095 →
        (bd.settleSweep whole).settle = bd.settle + 1 ∧ (bd.settleSweep whole).retrain = bd.retrain)
    ∧ (whole = true → bd.settle = 4095 → (bd.settleSweep whole).settle = 4096 ∧ (bd.settleSweep whole).retrain = 0)
    ∧ (whole = false ∨ 4096 ≤ bd.settle → bd.settleSweep whole = bd) := by
  have hlimit : Config.settleLimit = 4096 := rfl
  unfold Bond.settleSweep
  rw [hlimit]
  refine ⟨by split <;> rfl, fun hw hlt => ?_, fun hw heq => ?_, fun hno => if_neg fun hyes => ?_⟩
  · rw [if_pos ⟨h, hw, by omega⟩]
    exact ⟨rfl, if_neg (by omega)⟩
  · rw [if_pos ⟨h, hw, by omega⟩]
    exact ⟨congrArg (· + 1) heq, if_pos (by omega)⟩
  · obtain ⟨-, hw, hlt⟩ := hyes
    rcases hno with hno | hno
    · rw [hno] at hw
      exact Bool.noConfusion hw
    · omega

/-- Settles O47: the row as in every slot, the sweep counted, and then the notice, sent late or taken
(`Bond.settleSweep_running`). -/
theorem lastReadSlotCountsTheSweep : Obligations.LastReadSlotCountsTheSweep := by
  intro b first late s sh j bd hrunning hreading hslot hphase hlast hshape hnotice hfull
  have hcounts : bd.countsRunning = true := by simp [Bond.countsRunning, hrunning]
  have hmending := Bond.countsRunning_not_mending hcounts
  have hrow : takeSlot b first late s = ({ s with
      bufs := (s.popReadLanes b sh.lanes).bufs
      bonds := s.bonds.set b (bd.rowRead sh j (s.handedRow b sh.lanes)).countSweep } : State).tell b
        (.sweepCompleted (bd.wholeAt j)) late :=
    (takeSlot_noSeat hslot (State.seatDue_of_not_mending hmending)).trans
      ((readSlotNow_row hshape hreading hphase).trans (rowSlot_last_full hlast hfull))
  have hwhole : bd.wholeAt j = decide (j = 0 ∨ bd.rd.whole = true) := Bond.wholeAt_running j hcounts
  obtain ⟨hsweeps, hfills, hfillsUp⟩ := Bond.countSweep_counters (bd.rowRead sh j (s.handedRow b sh.lanes))
  have hpresented : ∀ f : Index → Word × Bool, bd.HeldOk →
      (∀ i : Index, i.val < sh.lanes → ∃ n rest, bd.laneOf i = some n ∧ bd.rd.withdrawn.getLsbD n.val = false
        ∧ (s.bufs.get n).entries = .unit (f i).1 (f i).2 :: rest) →
      RowPresented bd sh j f (bd.rowRead sh j (s.handedRow b sh.lanes)).countSweep.ra := fun f hheld hlanes => by
    rw [State.handedRow_eq (State.handed_of_map hmending hlanes)]
    exact RowPresented.countSweep (q := bd.rowRead sh j _) (Bond.presentRow_presented hcounts hshape hheld)
  have hframe : (bd.rowRead sh j (s.handedRow b sh.lanes)).countSweep = { bd with
      rd := { bd.rd with slotTaken := true, whole := decide (j = 0 ∨ bd.rd.whole = true) }
      ra := (bd.rowRead sh j (s.handedRow b sh.lanes)).countSweep.ra } := by
    rw [← hwhole]
    rfl
  generalize (bd.rowRead sh j (s.handedRow b sh.lanes)).countSweep = q at *
  have hbuf := s.popReadLanes_get b sh.lanes
  cases late with
  | true =>
    have hsent : takeSlot b first true s = { s with
        bufs := (s.popReadLanes b sh.lanes).bufs
        bonds := s.bonds.set b { q with inFlight := q.inFlight ++ [.sweepCompleted (bd.wholeAt j)] } } := by
      rw [hrow, tell_late]
      simp [State.withInFlight, State.modBond]
    refine ⟨_, { q with inFlight := q.inFlight ++ [.sweepCompleted (bd.wholeAt j)] }, congrArg Host.Outcome.next hsent,
      by simp, rfl, hbuf, ?_, hpresented, hsweeps, hfills, hfillsUp, fun _ => ⟨?_, ?_, ?_⟩, nofun⟩
    · rw [hframe]
    · rw [hframe]
    · rw [hframe]
    · rw [hframe, hwhole]
  | false =>
    have hstate : q.state = .running := by rw [hframe]; exact hrunning
    obtain ⟨hsettled, hbelow, hat, hkeep⟩ := Bond.settleSweep_running (bd.wholeAt j) hstate
    have htaken : takeSlot b first false s = { s with
        bufs := (s.popReadLanes b sh.lanes).bufs
        bonds := s.bonds.set b (q.settleSweep (bd.wholeAt j)) } := by
      rw [hrow, tell_taken ?_]
      · simp [bondTakes, State.modBond]
      · have hflight : q.inFlight = bd.inFlight := by rw [hframe]
        simpa [State.inFlightFrom, hflight, Notice.sender] using hnotice
    have hflight : (q.settleSweep (bd.wholeAt j)).inFlight = bd.inFlight := by rw [hsettled, hframe]
    have hra : (q.settleSweep (bd.wholeAt j)).ra = q.ra := by rw [hsettled]
    have hcountsEq : q.settle = bd.settle ∧ q.retrain = bd.retrain := by rw [hframe]; exact ⟨rfl, rfl⟩
    rw [hwhole] at *
    refine ⟨_, q.settleSweep (decide (j = 0 ∨ bd.rd.whole = true)), congrArg Host.Outcome.next htaken, by simp, rfl, hbuf, ?_,
      ?_, ?_, ?_, ?_, nofun, fun _ => ⟨hflight, fun hw hlt => ?_, fun hw heq => ?_, fun hle => ?_, fun hj hno => ?_⟩⟩
    · rw [hra, hflight, ← hwhole, hsettled, hframe]
    · rw [hra]; exact hpresented
    · rw [hra]; exact hsweeps
    · rw [hra]; exact hfills
    · rw [hra]; exact hfillsUp
    · rw [← hcountsEq.1, ← hcountsEq.2]
      exact hbelow (decide_eq_true hw) (by omega)
    · exact hat (decide_eq_true hw) (by omega)
    · rw [hkeep (.inr (by omega))]
      exact hcountsEq
    · rw [hkeep (.inl (by simp [hj, hno]))]
      exact hcountsEq

/-! ## Fill -/

/-- The notice of a sweep that was not whole moves nothing (R90). -/
theorem bondTakes_sweepNotWhole (b : BondId) (s : State) : bondTakes b (.sweepCompleted false) s = s := by
  simp [bondTakes, Bond.settleSweep, State.modBond]

/-- A sweep-completed notice of no whole sweep: it stays on its way, or it is gone (R90, R115). -/
theorem tell_sweepNotWhole {s : State} {b : BondId} {late : Bool} (h : late = true ∨ s.inFlightFrom b .readSide = false) :
    s.tell b (.sweepCompleted false) late = s.withInFlight b ((s.bonds.get b).inFlight ++
      if late = true then [.sweepCompleted false] else []) := by
  cases late with
  | true => exact tell_late s b _
  | false =>
    rw [tell_taken (by simpa [Notice.sender] using h), bondTakes_sweepNotWhole]
    simp [State.withInFlight_self]

/-- Settles O48: fill by `padUnits_shows` and `Bond.fillUnits_getD`, and the notice by `tell_sweepNotWhole`. -/
theorem completingSlotPresentsFill : Obligations.CompletingSlotPresentsFill := by
  intro b first late s sh j bd hcompleting hslot hphase hshape hheld hnotice
  have hfill : takeSlot b first late s = fillSlot b sh j late s :=
    (takeSlot_noSeat hslot (State.seatDue_of_not_reading (by simp [bd, hcompleting]))).trans
      (readSlotNow_fill hshape hcompleting hphase)
  have hshows := padUnits_shows (sh := sh) (j := j) false false (bd.fillUnits_getD hshape hheld)
  refine ⟨_, _, (bd.completingSlot sh j).ra, congrArg Host.Outcome.next hfill, hshows, ?_, ?_, fun hne => ?_, fun heq => ?_⟩
  · unfold fillSlot Bond.completingSlot
    dsimp only
    split
    · rename_i hlast
      rw [tell_sweepNotWhole (by simpa [State.inFlightFrom, Bond.countSweep, Bond.presentFill] using hnotice)]
      simp [State.withInFlight, State.modBond, hlast, Bond.countSweep, Bond.presentFill, bd]
    · rename_i hlast
      simp [State.modBond, hlast, Bond.presentFill, bd]
  · unfold Bond.completingSlot
    dsimp only
    split <;> rfl
  · simp [Bond.completingSlot, hne, Bond.presentFill]
  · simp only [Bond.completingSlot, if_pos heq]
    exact ⟨rfl, rfl⟩

end Sys2Proof.Machine

/-! The invariant of the whole part is not kept by every step from every state that meets it: it does not say that the entry
of a lane that is not listened to is EMPTY or STALE. -/

namespace Sys2Proof.Machine

/-- BD0 in CALLING with lane 0 as its one member. Lane 0 has been disabled, and its lock-lost notice is on its way; so is a
CONFIRMED notice. -/
def lostMemberBond : Bond :=
  { Bond.reset with
    cfg := { BondConfig.reset with members := 1, matchMode := .learn }
    state := .calling, callTimer := .running 0 10000
    inFlight := [.lockLost 0 .disabled, .entryStatus 0 .confirmed] }

/-- The part with that bond, every lane in OFF, and the entry of lane 0 CONFIRMED still; a unit time begins, in which the
roll-call unit's notice alone arrives. -/
def lostMemberState : State :=
  { State.reset with
    rolls := State.reset.rolls.set 0
      { RollCall.reset with entry := { RollCall.reset.entry with status := .confirmed, repeats := 3 } }
    bonds := State.reset.bonds.set 0 lostMemberBond
    refmon := ⟨true, 64, 0⟩
    pending := [.timestampCounterAdvance (some [(0, .rollCall)])] }

theorem lostMemberState_bonds (b : BondId) : (lostMemberState.bonds.get b).Ok := by
  refine ⟨?_, ?_, ?_, ?_, ?_, ?_, ?_, ?_, ?_, ?_, ?_, ?_, ?_⟩ <;> revert b <;> decide

theorem lostMemberState_inv : lostMemberState.Inv :=
  ⟨by decide, by decide, by decide, by decide, by decide, by decide, by decide, lostMemberState_bonds, by decide, by decide,
    by decide, by decide, by decide, by decide⟩

/-- The roll call passes, and the write side of a lane in OFF goes to WATCHING. -/
theorem lostMemberState_step : ∃ t, step lostMemberState = .next t ∧ (t.bufs.get 0).side = .watching
    ∧ (t.lanes.get 0).mode = .off := ⟨_, rfl, by decide, by decide⟩

/-- Refutes O5: from `lostMemberState` the bond enters ALIGNING with a member in OFF, whose buffer is then not CLOSED. -/
theorem not_everyStepKeepsTheInvariant : ¬ Obligations.EveryStepKeepsTheInvariant := by
  intro h
  obtain ⟨t, hstep, hside, hmode⟩ := lostMemberState_step
  have hbuffers := (h _ _ lostMemberState_inv hstep).buffers 0
  exact (hbuffers.2 (.inr (by rw [hside]; decide))).1 hmode

end Sys2Proof.Machine

/-! What a bond's own moves leave of the row on its port, and what a fault leaves of its release unit and read side (R95,
R107, R118, R142, R145, R146). -/

namespace Sys2Proof.Machine

/-! ## A fault and the read side -/

theorem Bond.departed_fields (bd : Bond) : bd.endMend.leaveRun.stopTimers.rd = bd.rd.departed bd.runSweep
    ∧ bd.endMend.leaveRun.stopTimers.ra.presented = bd.ra.presented
    ∧ bd.endMend.leaveRun.stopTimers.ra.standing = .spoiled := by
  refine ⟨bd.endMend_leaveRun_rd, ?_, bd.left_common.standing⟩
  unfold Bond.stopTimers
  rw [bd.endMend.leaveRun_frame, bd.endMend_frame]

/-- A read side that completes its sweep keeps its run shape (R118, R141). -/
theorem Bond.departed_runShape {bd : Bond} (h : (bd.rd.departed bd.runSweep).state = .completing) :
    bd.endMend.leaveRun.stopTimers.ra.runShape = bd.ra.runShape := by
  have hrun : ∀ bd : Bond, (bd.rd.departed bd.runSweep).state = .completing → bd.leaveRun.ra.runShape = bd.ra.runShape := by
    intro bd h
    unfold Bond.leaveRun ReadSide.departed at *
    dsimp only at *
    have hsweep : ∀ st, Bond.runSweep { bd with ra := { bd.ra with standing := st } } = bd.runSweep := fun _ => rfl
    rw [hsweep]
    cases hrd : bd.rd.state <;> simp only [hrd] at h ⊢
    · split at h <;> simp_all
    · split at h <;> simp_all
  have hframe := bd.endMend_frame
  have hsame : bd.endMend.rd = bd.rd ∧ bd.endMend.runSweep = bd.runSweep ∧ bd.endMend.ra = bd.ra := by
    rw [hframe]; exact ⟨rfl, rfl, rfl⟩
  rw [← hsame.2.2]
  exact hrun bd.endMend (by rw [hsame.1, hsame.2.1]; exact h)

/-- What a fault leaves of the bond's state, its release unit, its read side and its port (R95, R107, R118). -/
structure FaultLeaves (b : BondId) (s t : State) : Prop where
  state : (t.bonds.get b).state = if (s.bonds.get b).cfg.retrainLimit.toNat ≤ (s.bonds.get b).retrain then .halted
    else if s.membersLocked b then .calling else .holding
  release : (t.bonds.get b).rel.state = .idle
  rd : (t.bonds.get b).rd = (s.bonds.get b).rd.departed (s.bonds.get b).runSweep
  presented : (t.bonds.get b).ra.presented = (s.bonds.get b).ra.presented
  standing : (t.bonds.get b).ra.standing = .spoiled
  runShape : ((s.bonds.get b).rd.departed (s.bonds.get b).runSweep).state = .completing →
    (t.bonds.get b).ra.runShape = (s.bonds.get b).ra.runShape

theorem takeFault_leaves (b : BondId) (cause : FaultCause) (lane : Option Lane) (index : Option Index)
    (detail : Option Detail) (s : State) : FaultLeaves b s (takeFault b cause lane index detail s) := by
  have hcap := (s.bonds.get b).capture_frame (faultRec b cause lane index detail s)
  by_cases hlt : (s.bonds.get b).retrain < (s.bonds.get b).cfg.retrainLimit.toNat
  · obtain ⟨hbond, -, -⟩ := takeFault_retrains cause lane index detail hlt
    generalize takeFault b cause lane index detail s = t at *
    generalize hbd : { (s.bonds.get b).capture (faultRec b cause lane index detail s) with
      retrain := (s.bonds.get b).retrain + 1 } = bd at hbond
    have hsame : bd.rd = (s.bonds.get b).rd ∧ bd.runSweep = (s.bonds.get b).runSweep ∧ bd.ra = (s.bonds.get b).ra := by
      rw [← hbd, hcap]; exact ⟨rfl, rfl, rfl⟩
    obtain ⟨hrd, hpresented, hstanding⟩ := bd.departed_fields
    have hshape := bd.departed_runShape
    rw [hsame.1, hsame.2.1] at hrd hshape
    rw [hsame.2.2] at hpresented hshape
    have hfields : (t.bonds.get b).rd = bd.toHolding.rd ∧ (t.bonds.get b).ra = bd.toHolding.ra
        ∧ (t.bonds.get b).rel = bd.toHolding.rel
        ∧ (t.bonds.get b).state = (if s.membersLocked b then .calling else .holding) := by
      rw [hbond]; split <;> exact ⟨rfl, rfl, rfl, rfl⟩
    obtain ⟨h1, h2, h3, h4⟩ := hfields
    exact ⟨h4.trans (if_neg (Nat.not_le.mpr hlt)).symm, by rw [h3]; rfl, h1.trans hrd, by rw [h2]; exact hpresented,
      by rw [h2]; exact hstanding, fun h => by rw [h2]; exact hshape h⟩
  · obtain ⟨hbond, -, -, -⟩ := takeFault_halts cause lane index detail (Nat.not_lt.mp hlt)
    generalize takeFault b cause lane index detail s = t at *
    generalize (s.bonds.get b).capture (faultRec b cause lane index detail s) = bd at hbond hcap
    have hsame : bd.rd = (s.bonds.get b).rd ∧ bd.runSweep = (s.bonds.get b).runSweep ∧ bd.ra = (s.bonds.get b).ra := by
      rw [hcap]; exact ⟨rfl, rfl, rfl⟩
    obtain ⟨hrd, hpresented, hstanding⟩ := bd.departed_fields
    have hshape := bd.departed_runShape
    rw [hsame.1, hsame.2.1] at hrd hshape
    rw [hsame.2.2] at hpresented hshape
    exact ⟨by rw [hbond, if_pos (Nat.not_lt.mp hlt)]; rfl, by rw [hbond]; rfl, by rw [hbond]; exact hrd,
      by rw [hbond]; exact hpresented, by rw [hbond]; exact hstanding, fun h => by rw [hbond]; exact hshape h⟩

/-! ## The row on the port -/

/-- A bond's move that leaves the row on its port as it is. -/
def KeepsRow (b : BondId) (s t : State) : Prop := (t.bonds.get b).ra.presented = (s.bonds.get b).ra.presented

theorem KeepsRow.trans {b : BondId} {s t u : State} (h : KeepsRow b s t) (k : KeepsRow b t u) : KeepsRow b s u :=
  Eq.trans k h

theorem modBond_keepsRow {b : BondId} {f : Bond → Bond} {s : State}
    (h : (f (s.bonds.get b)).ra.presented = (s.bonds.get b).ra.presented) : KeepsRow b s (s.modBond b f) := by
  simpa [KeepsRow] using h

theorem takeFault_keepsRow (b : BondId) (cause : FaultCause) (lane : Option Lane) (index : Option Index)
    (detail : Option Detail) (s : State) : KeepsRow b s (takeFault b cause lane index detail s) :=
  (takeFault_leaves b cause lane index detail s).presented

theorem enterCalling_keepsRow (b : BondId) (s : State) : KeepsRow b s (enterCalling b s) := by
  simp [KeepsRow, enterCalling, Bond.send, Bond.toCalling]

theorem evaluateRollCall_keepsRow (b : BondId) (s : State) : KeepsRow b s (evaluateRollCall b s) := by
  unfold evaluateRollCall
  split
  · exact rfl
  · split
    · exact takeFault_keepsRow b _ _ _ _ s
    · simp [KeepsRow, enterAligning]

theorem startMend_keepsRow (b : BondId) (n : Lane) (cause : TriggerCause) (s : State) :
    KeepsRow b s (startMend b n cause s) := by
  simp [KeepsRow, startMend, Bond.send]

theorem runningLaneFault_keepsRow (b : BondId) (n : Lane) (trigger : TriggerCause) (cause : FaultCause) (s : State) :
    KeepsRow b s (runningLaneFault b n trigger cause s) := by
  unfold runningLaneFault
  split
  · exact startMend_keepsRow b n trigger s
  · exact takeFault_keepsRow b _ _ _ _ s

theorem mendingLockLost_keepsRow (b : BondId) (m : MendRec) (n : Lane) (cause : LossCause) (s : State) :
    KeepsRow b s (mendingLockLost b m n cause s) := by
  unfold mendingLockLost
  split_ifs
  · exact takeFault_keepsRow b _ _ _ _ s
  · exact rfl
  · simp [KeepsRow, returnToAnnounce, Bond.modMend]
  · exact takeFault_keepsRow b _ _ _ _ s
  · exact rfl

theorem mendingReport_keepsRow (b : BondId) (m : MendRec) (n : Lane) (sub : SubCause) (s : State) :
    KeepsRow b s (mendingReport b m n sub s) := by
  unfold mendingReport
  split
  · exact takeFault_keepsRow b _ _ _ _ s
  · exact rfl

theorem bondTakesConfirmed_keepsRow (b : BondId) (n : Lane) (s : State) : KeepsRow b s (bondTakesConfirmed b n s) := by
  unfold bondTakesConfirmed
  dsimp only
  split
  · split
    · exact evaluateRollCall_keepsRow b s
    · exact rfl
  · split
    · split
      · unfold mendCheck
        split
        · exact takeFault_keepsRow b _ _ _ _ s
        · exact modBond_keepsRow rfl
      · exact rfl
    · exact rfl
  all_goals exact rfl

theorem bondTakesLockLost_keepsRow (b : BondId) (n : Lane) (cause : LossCause) (s : State) :
    KeepsRow b s (bondTakesLockLost b n cause s) := by
  have hfault := fun c => takeFault_keepsRow b c (some n) ((s.bonds.get b).indexOf n) none s
  unfold bondTakesLockLost
  dsimp only
  split
  case h_4 | h_5 =>
    split
    · exact hfault _
    · exact rfl
  case h_6 =>
    split
    · cases cause
      · exact runningLaneFault_keepsRow b n _ _ s
      · exact runningLaneFault_keepsRow b n _ _ s
      · exact hfault _
      · exact hfault _
    · exact rfl
  case h_7 =>
    split
    · exact mendingLockLost_keepsRow b _ n cause s
    · exact rfl
  all_goals exact rfl

theorem bondTakesMarkSlip_keepsRow (b : BondId) (n : Lane) (s : State) : KeepsRow b s (bondTakesMarkSlip b n s) := by
  unfold bondTakesMarkSlip
  dsimp only
  split
  · split
    · exact takeFault_keepsRow b _ _ _ _ s
    · exact rfl
  · split
    · exact runningLaneFault_keepsRow b n _ _ s
    · exact rfl
  · split
    · split
      · split
        · exact modBond_keepsRow rfl
        · exact rfl
      · exact mendingReport_keepsRow b _ n _ s
    · exact rfl
  all_goals exact rfl

theorem bondTakesUnderflow_keepsRow (b : BondId) (n : Lane) (s : State) : KeepsRow b s (bondTakesUnderflow b n s) := by
  unfold bondTakesUnderflow
  dsimp only
  split
  · split
    · exact runningLaneFault_keepsRow b n _ _ s
    · exact rfl
  · split
    · exact mendingReport_keepsRow b _ n _ s
    · exact rfl
  all_goals exact rfl

theorem Bond.settleSweep_ra (bd : Bond) (whole : Bool) : (bd.settleSweep whole).ra = bd.ra := by
  unfold Bond.settleSweep
  split <;> rfl

/-- No notice and no report changes the row on the port of the bond that takes it (R142). -/
theorem bondTakes_keepsRow (b : BondId) (x : Notice) (s : State) : KeepsRow b s (bondTakes b x s) := by
  have hfault := fun c l i d => takeFault_keepsRow b c l i d s
  cases x with
  | lockGained n =>
    simp only [bondTakes, bondTakesLockGained]
    split
    · exact enterCalling_keepsRow b s
    · exact rfl
  | lockLost n cause => exact bondTakesLockLost_keepsRow b n cause s
  | entryStatus n status =>
    cases status
    case confirmed => exact bondTakesConfirmed_keepsRow b n s
    all_goals exact rfl
  | markSlip n => exact bondTakesMarkSlip_keepsRow b n s
  | overflow n =>
    simp only [bondTakes, bondTakesOverflow]
    split
    · exact hfault _ _ _ _
    · exact rfl
  | skew lane units =>
    simp only [bondTakes, bondTakesSkew]
    split
    · exact hfault _ _ _ _
    · exact rfl
  | released =>
    simp only [bondTakes, bondTakesReleased]
    split
    · simp [KeepsRow, Bond.toRunning]
    · exact rfl
  | sweepCompleted whole => exact modBond_keepsRow (congrArg Reassembly.presented (Bond.settleSweep_ra _ whole))
  | underflow n => exact bondTakesUnderflow_keepsRow b n s
  | epochDrift =>
    simp only [bondTakes, bondTakesEpochDrift]
    split
    · exact hfault _ _ _ _
    · exact rfl

theorem takeNext_keepsRow (b : BondId) (x : Sender) (s : State) : KeepsRow b s (takeNext b x s) := by
  unfold takeNext
  split
  · exact KeepsRow.trans (modBond_keepsRow rfl) (bondTakes_keepsRow b _ _)
  · exact rfl

theorem takeFrom_keepsRow (b : BondId) (x : Sender) (s : State) : KeepsRow b s (takeFrom b x s) := by
  unfold takeFrom
  generalize (s.bonds.get b).inFlight.filter _ = l
  induction l generalizing s with
  | nil => exact rfl
  | cons y rest ih => exact (takeNext_keepsRow b x s).trans (ih _)

theorem tell_keepsRow (s : State) (b : BondId) (x : Notice) (late : Bool) : KeepsRow b s (s.tell b x late) := by
  cases late
  · exact (takeFrom_keepsRow b x.sender s).trans (bondTakes_keepsRow b x _)
  · simp [KeepsRow, tell_late, State.withInFlight]

theorem reportUnderflows_keepsRow (b : BondId) (under : List Lane) (late : Bool) (s : State) :
    KeepsRow b s (reportUnderflows b under late s) := by
  induction under generalizing s with
  | nil => exact rfl
  | cons n rest ih => exact (tell_keepsRow s b _ late).trans (ih _)

/-! ## The row of a slot -/

theorem rowSlot_presented (b : BondId) (sh : Shape) (j : Nat) (first late : Bool) (s : State) :
    ((rowSlot b sh j first late s).bonds.get b).ra.presented =
      ((s.bonds.get b).presentRow sh j (s.handedRow b sh.lanes)).ra.presented := by
  have hrow : ((s.afterRow b sh j).bonds.get b).ra.presented =
      ((s.bonds.get b).presentRow sh j (s.handedRow b sh.lanes)).ra.presented := by
    simp [State.afterRow, State.popReadLanes, Bond.rowTaken, Bond.slotDone]
  have hcount : KeepsRow b (s.afterRow b sh j) ((s.afterRow b sh j).modBond b Bond.countSweep) := modBond_keepsRow rfl
  have hkeeps : KeepsRow b (s.afterRow b sh j) (rowSlot b sh j first late s) := by
    rw [rowSlot_eq]
    split
    · split
      · exact (hcount.trans (reportUnderflows_keepsRow b _ late _)).trans (tell_keepsRow _ b _ late)
      · exact (hcount.trans (tell_keepsRow _ b _ late)).trans (reportUnderflows_keepsRow b _ late _)
    · exact reportUnderflows_keepsRow b _ late _
  exact Eq.trans hkeeps hrow

theorem gapSlot_presented (b : BondId) (sh : Shape) (late : Bool) (s : State) :
    ((gapSlot b sh late s).bonds.get b).ra.presented = none := by
  refine Eq.trans (reportUnderflows_keepsRow b _ late _) ?_
  simp

theorem fillSlot_presented (b : BondId) (sh : Shape) (j : Nat) (late : Bool) (s : State) :
    ((fillSlot b sh j late s).bonds.get b).ra.presented = ((s.bonds.get b).presentFill sh j).ra.presented := by
  have hslot : ((s.modBond b fun bd => bd.completingSlot sh j).bonds.get b).ra.presented =
      ((s.bonds.get b).presentFill sh j).ra.presented := by
    simp only [State.modBond_get, if_true, Bond.completingSlot]
    split <;> rfl
  unfold fillSlot
  dsimp only
  split
  · exact Eq.trans (tell_keepsRow _ b _ late) hslot
  · exact hslot

/-- A row is CLEAN in its slot only where its bond counts as RUNNING (R145, R148). -/
theorem Bond.judgedStanding_clean {bd : Bond} {j : Nat} {tainted : Bool} (hstanding : bd.StandingOk)
    (h : bd.judgedStanding j tainted = .clean) : bd.countsRunning = true := by
  have hopen : bd.openStanding j = .clean := by
    unfold Bond.judgedStanding at h
    split at h
    · assumption
    all_goals contradiction
  by_contra hcounts
  have hspoiled := hstanding (Bool.eq_false_iff.mpr hcounts)
  unfold Bond.openStanding at hopen
  simp [hspoiled, hcounts] at hopen

/-- Settles O49: only `presentRow` shows a VALID row, and it judges the row CLEAN. -/
theorem validRowsComeOnlyFromRunning : Obligations.ValidRowsComeOnlyFromRunning := by
  intro b first late s t row hstanding hslot hnone hexec hrow hvalid
  cases hseat : s.seatDue b with
  | true => exact .inr rfl
  | false =>
    left
    obtain rfl : readSlotNow b first late s = t :=
      (takeSlot_noSeat hslot hseat).symm.trans (Host.Outcome.next.inj hexec)
    unfold readSlotNow at hrow
    dsimp only at hrow
    split at hrow
    · rw [hnone] at hrow; contradiction
    · split at hrow
      · rw [hnone] at hrow; contradiction
      · split at hrow
        · rw [gapSlot_presented] at hrow; contradiction
        · rw [rowSlot_presented] at hrow
          obtain rfl := Option.some.inj hrow
          exact Bond.judgedStanding_clean hstanding (by simpa using hvalid)
      · split at hrow
        · rw [hnone] at hrow; contradiction
        · rw [fillSlot_presented] at hrow
          obtain rfl := Option.some.inj hrow
          contradiction

end Sys2Proof.Machine

/-! The release, and what a bond takes of a release report that was on its way (R88, R105, R112, R118, R146, R194). -/

namespace Sys2Proof.Machine

/-! ## What is on its way to a bond -/

@[simp] theorem withInFlight_get (s : State) (b : BondId) (xs : List Notice) :
    (s.withInFlight b xs).bonds.get b = { s.bonds.get b with inFlight := xs } := by
  simp [State.withInFlight]

theorem withInFlight_otherBonds (s : State) (b : BondId) (xs : List Notice) : State.OtherBonds b s (s.withInFlight b xs) :=
  fun c hc => by simp [State.withInFlight, hc]

/-- A bond takes the one message on its way to it. -/
theorem takeInFlight_single {b : BondId} {x : Notice} {s : State} (h : (s.bonds.get b).inFlight = [x]) :
    takeInFlight b s = (bondTakes b x (s.withInFlight b [])).withInFlight b [] := by
  rw [takeInFlight_eq]
  simp only [takeSent, h, List.foldl, takeFirst]
  rfl

/-- Where nothing is on its way to the other bonds, what lands is what one bond takes. -/
theorem landed_single {b : BondId} {s : State} (h : ∀ c, c ≠ b → (s.bonds.get c).inFlight = []) :
    s.landed = takeInFlight b s := by
  have hothers : ∀ c, c ≠ b → ((takeInFlight b s).bonds.get c).inFlight = [] := fun c hc => by
    obtain ⟨xs, hmoves⟩ := takeInFlight_moves b s
    rw [hmoves.others c hc, withInFlight_otherBonds s b xs c hc, h c hc]
  have hdone := takeInFlight_done b s
  have hstep : ∀ (l : List BondId) (t : State), (∀ c, (t.bonds.get c).inFlight = []) →
      l.foldl (fun s c => takeInFlight c s) t = t := fun l t ht => by
    induction l with
    | nil => rfl
    | cons c rest ih => rw [List.foldl_cons, takeInFlight_nil (ht c), ih]
  have hall : ∀ c, ((takeInFlight b s).bonds.get c).inFlight = [] := fun c => by
    by_cases hc : c = b
    · exact hc ▸ hdone
    · exact hothers c hc
  have hsplit : ∀ l : List BondId, b ∈ l → l.foldl (fun s c => takeInFlight c s) s = takeInFlight b s := fun l hl => by
    induction l with
    | nil => simp at hl
    | cons c rest ih =>
      by_cases hc : c = b
      · subst hc
        exact hstep rest _ hall
      · rw [List.foldl_cons, takeInFlight_nil (h c hc)]
        exact ih ((List.mem_cons.mp hl).resolve_left (Ne.symm hc))
  exact hsplit allBonds (mem_allBonds b)

/-! ## A fault among what is on its way -/

/-- Another list on its way to the bond changes nothing that a fault says, but what is on its way. -/
theorem membersLocked_withInFlight (s : State) (b : BondId) (xs : List Notice) :
    (s.withInFlight b xs).membersLocked b = s.membersLocked b := by
  simp [State.membersLocked, State.withInFlight]

theorem bondTakes_overflow {b : BondId} {n : Lane} {s : State} (h : (s.bonds.get b).state = .aligning)
    (hn : (s.bonds.get b).cfg.isMember n = true) : bondTakes b (.overflow n) s = takeLaneFault b .overflow n none s := by
  simp [bondTakes, bondTakesOverflow, h, hn]

theorem bondTakes_lockLost_aligning {b : BondId} {n : Lane} {cause : LossCause} {s : State}
    (h : (s.bonds.get b).state = .aligning) (hn : (s.bonds.get b).cfg.isMember n = true) :
    bondTakes b (.lockLost n cause) s = takeLaneFault b cause.fault n none s := by
  simp [bondTakes, bondTakesLockLost, h, hn]

theorem bondTakes_released {b : BondId} {s : State} (h : (s.bonds.get b).state = .aligning)
    (hr : (s.bonds.get b).rel.state = .released) :
    bondTakes b .released s = (s.modBond b Bond.toRunning).raiseBond b .runningEntered := by
  simp [bondTakes, bondTakesReleased, h, hr]

/-- A release report of an attempt that has ended has no effect (R112). -/
theorem bondTakes_released_ended {b : BondId} {s : State} (h : (s.bonds.get b).rel.state ≠ .released) :
    bondTakes b .released s = s := by
  simp [bondTakes, bondTakesReleased, h]

/-! ## The release -/

theorem ReleaseUnit.pastDepth_of_gt {r : ReleaseUnit} {e t : Word32} (he : r.earliest = some e) (h : 1024 < (t - e).toNat) :
    r.pastDepth t = true := by
  rw [ReleaseUnit.pastDepth, he]
  exact decide_eq_true h

/-! ## The first row of a sweep -/

theorem Shape.one_lt_sweep (sh : Shape) : 1 < sh.sweep := by
  unfold Shape.sweep
  omega

/-- Row 0 of untainted units is VALID where its bond counts as RUNNING (R142 to R145). -/
theorem Bond.presentRow_first {bd : Bond} {sh : Shape} {f : Index → Word} (hcounts : bd.countsRunning = true) :
    ∃ row, row.Shows sh 0 true false f
      ∧ (bd.presentRow sh 0 ((indicesBelow sh.lanes).map fun i => (f i, false))).ra.presented = some row
      ∧ (bd.presentRow sh 0 ((indicesBelow sh.lanes).map fun i => (f i, false))).ra.standing = .clean := by
  have huntainted : ((indicesBelow sh.lanes).map fun i => (f i, false)).any Prod.snd = false := by simp
  have hstanding : bd.judgedStanding 0 false = .clean := by simp [Bond.judgedStanding, Bond.openStanding, hcounts]
  have hunits : bd.cfg.validUnits ((indicesBelow sh.lanes).map fun i => (f i, false)) = (indicesBelow sh.lanes).map f := by
    simp [BondConfig.validUnits]
  refine ⟨⟨padUnits ((indicesBelow sh.lanes).map f), true, 0 == 0, false, startChannel sh 0⟩,
    padUnits_shows true false (getD_map_indicesBelow sh.lanes_le f), ?_, ?_⟩
  · simp [Bond.presentRow, huntainted, hstanding, hunits]
  · simp [Bond.presentRow, huntainted, hstanding]

/-- The read slot of row 0, each index with an untainted unit at the head of its read lane (R114, R142). -/
theorem readSlotNow_firstRow {b : BondId} {first late : Bool} {s : State} {sh : Shape} {f : Index → Word}
    (hcounts : (s.bonds.get b).countsRunning = true) (hreading : (s.bonds.get b).rd.state = .reading)
    (hphase : (s.bonds.get b).rd.phase = 1) (hshape : (s.bonds.get b).ra.runShape = some sh)
    (hread : ∀ i : Index, i.val < sh.lanes → ∃ n rest, (s.bonds.get b).readLane i = some n
      ∧ (s.bufs.get n).entries = .unit (f i) false :: rest) :
    ∃ row ra, row.Shows sh 0 true false f ∧ ra.presented = some row ∧ ra.standing = .clean ∧ ra.runShape = some sh
      ∧ readSlotNow b first late s = { s with
          bufs := (s.popReadLanes b sh.lanes).bufs
          bonds := s.bonds.set b { s.bonds.get b with
            rd := { (s.bonds.get b).rd with slotTaken := true, whole := true }, ra := ra } } := by
  have hrow := (readSlotNow_row (first := first) (late := late) hshape hreading hphase).trans
    (rowSlot_full (Nat.ne_of_lt sh.one_lt_sweep) (State.readLanes_full (f := fun i => (f i, false)) hread))
  rw [State.handedRow_eq (f := fun i => (f i, false)) hread] at hrow
  obtain ⟨row, hshows, hpresented, hstanding⟩ := Bond.presentRow_first (sh := sh) (f := f) hcounts
  refine ⟨row, _, hshows, hpresented, hstanding, hshape, hrow.trans ?_⟩
  have hwhole : (s.bonds.get b).wholeAt 0 = true := by simp [Bond.wholeAt, hcounts]
  simp only [Bond.rowRead, hwhole]
  rfl

/-- A release that comes more than 1024 unit times after the earliest start mark is none: the bond takes what is on its way,
and then the release is still past that depth, or its unit has left COUNTDOWN. -/
theorem takeRelease_of_not_reached_after {s : State} {b : BondId} (late : Bool)
    (h : ((takeBeforeRelease b s).bonds.get b).rel.state ≠ .countdown) : takeRelease b late s = takeBeforeRelease b s := by
  refine takeRelease_notDue ?_ late
  simp [State.releaseDue, State.releaseReached, h]

theorem State.releaseReached_iff {s : State} {b : BondId} : s.releaseReached b = true ↔
    (s.bonds.get b).state = .aligning ∧ (s.bonds.get b).rel.state = .countdown ∧
      (((s.bonds.get b).rd.state = .idle ∧ (s.bonds.get b).rel.instant = some s.timestamp)
        ∨ ((s.bonds.get b).rd.state = .completing ∧ (s.bonds.get b).rel.postponed = true
          ∧ (s.bonds.get b).rd.phase = 0)) := by
  unfold State.releaseReached
  cases h : (s.bonds.get b).rd.state <;> simp [h, and_assoc]

/-! ## A release past the depth of a buffer -/

/-- A fault taken with nothing else on its way: what the bond takes then is the fault alone. -/
theorem takeBeforeRelease_overflow {b : BondId} {n : Lane} {s : State} (hreached : s.releaseReached b = true)
    (hpast : (s.bonds.get b).rel.pastDepth s.timestamp = true) (hn : (s.bonds.get b).cfg.isMember n = true)
    (hflight : (s.bonds.get b).inFlight = [.overflow n]) :
    takeBeforeRelease b s = (takeLaneFault b .overflow n none (s.withInFlight b [])).withInFlight b [] := by
  have hstate := (State.releaseReached_iff.mp hreached).1
  rw [takeBeforeRelease, hreached, hpast, Bool.and_self, if_pos rfl, takeInFlight_single hflight,
    bondTakes_overflow (by simpa using hstate) (by simpa using hn)]

theorem takeRelease_overflow {b : BondId} {n : Lane} {s : State} (late : Bool) (hreached : s.releaseReached b = true)
    (hpast : (s.bonds.get b).rel.pastDepth s.timestamp = true) (hn : (s.bonds.get b).cfg.isMember n = true)
    (hflight : (s.bonds.get b).inFlight = [.overflow n]) :
    takeRelease b late s = (takeLaneFault b .overflow n none (s.withInFlight b [])).withInFlight b [] := by
  have hbefore := takeBeforeRelease_overflow hreached hpast hn hflight
  refine (takeRelease_of_not_reached_after late ?_).trans hbefore
  rw [hbefore, withInFlight_get]
  have hidle : ((takeLaneFault b .overflow n none (s.withInFlight b [])).bonds.get b).rel.state = .idle :=
    (takeFault_leaves b _ _ _ _ _).release
  simp [hidle]

/-- A read side that departs does not read. -/
theorem ReadSide.departed_not_reading (rd : ReadSide) (sweep : Nat) : (rd.departed sweep).state ≠ .reading := by
  unfold ReadSide.departed
  split
  · simp [*]
  · split <;> simp [*]
  · split <;> simp

/-! ## A release that is due -/

/-- The bond once its release is taken and its report is sent: taken in the same step, or on its way (R88, R112). -/
def Bond.reported (bd : Bond) (late : Bool) : Bond :=
  if late then bd.send [.released] else bd.toRunning

theorem Bond.reported_countsRunning {bd : Bond} (late : Bool) (h : bd.state = .aligning) (hr : bd.rel.state = .released) :
    (bd.reported late).countsRunning = true := by
  cases late <;> simp [Bond.reported, Bond.countsRunning, Bond.send, Bond.toRunning, h, hr]

/-- What the release and its report leave for the slot of row 0. -/
theorem Bond.released_reported (bd : Bond) (p : Profile) (now : Word32) (late : Bool) :
    let q := (bd.released p now).reported late
    q.rd = ⟨.reading, 1, 0, false, false⟩ ∧ q.ra.runShape = some p.shape ∧ q.laneOf = bd.laneOf ∧ q.rel.state = .released
    ∧ q.rel.instant = some now := by
  cases late <;> exact ⟨rfl, rfl, rfl, rfl, rfl⟩

/-- What sending the release report makes of the state. -/
theorem tell_released {b : BondId} {s : State} {late : Bool} (h : (s.bonds.get b).state = .aligning)
    (hr : (s.bonds.get b).rel.state = .released) (hflight : late = true ∨ s.inFlightFrom b .readSide = false) :
    s.tell b .released late = { s with
      bonds := s.bonds.set b ((s.bonds.get b).reported late)
      irq := if late then s.irq else (s.raiseBond b .runningEntered).irq } := by
  cases late with
  | true => rfl
  | false =>
    rw [tell_taken (by simpa [Notice.sender] using hflight), bondTakes_released h hr]
    rfl

/-- A release that is due is the release of the bond, its report, and the slot of row 0. -/
theorem takeRelease_due {b : BondId} {late : Bool} {s : State} {p : Profile} (hprofile : (s.bonds.get b).profile = some p)
    (hreached : s.releaseReached b = true) (hpast : (s.bonds.get b).rel.pastDepth s.timestamp = false) :
    takeRelease b late s =
      takeSlot b false late ((s.modBond b fun bd => bd.released p s.timestamp).tell b .released late) := by
  have hself := takeBeforeRelease_self (s := s) (b := b) (.inr (.inl hpast))
  simp only [takeRelease, hself, hprofile, State.releaseDue_iff.mpr ⟨hreached, hpast⟩, if_true]

/-- A release that is due, with every index's head an untainted unit: row 0 stands on the port in the same step. -/
theorem takeRelease_row {b : BondId} {late : Bool} {s : State} {p : Profile} {f : Index → Word}
    (hprofile : (s.bonds.get b).profile = some p) (hreached : s.releaseReached b = true)
    (hpast : (s.bonds.get b).rel.pastDepth s.timestamp = false)
    (hlanes : ∀ i : Index, i.val < p.shape.lanes → ∃ n rest, (s.bonds.get b).laneOf i = some n
      ∧ (s.bufs.get n).entries = .unit (f i) false :: rest)
    (hflight : late = true ∨ s.inFlightFrom b .readSide = false) :
    ∃ row ra bufs, row.Shows p.shape 0 true false f ∧ ra.presented = some row ∧ ra.standing = .clean
      ∧ ra.runShape = some p.shape
      ∧ (∀ i n, i.val < p.shape.lanes → (s.bonds.get b).laneOf i = some n →
          (bufs.get n).entries = (s.bufs.get n).entries.tail)
      ∧ takeRelease b late s = { s with
          bufs := bufs
          bonds := s.bonds.set b { ((s.bonds.get b).released p s.timestamp).reported late with
            rd := ⟨.reading, 1, 0, true, true⟩, ra := ra }
          irq := if late then s.irq else (s.raiseBond b .runningEntered).irq } := by
  have hstate : ((s.bonds.get b).released p s.timestamp).state = .aligning := (State.releaseReached_iff.mp hreached).1
  have htold := tell_released (b := b) (late := late)
    (s := s.modBond b fun bd => bd.released p s.timestamp) (by simpa using hstate)
    (by simp [Bond.released]) (by simpa [State.inFlightFrom, Bond.released] using hflight)
  have hrelease := (takeRelease_due hprofile hreached hpast).trans (congrArg (takeSlot b false late) htold)
  obtain ⟨hrd, hshape, hlaneOf, -, -⟩ := (s.bonds.get b).released_reported p s.timestamp late
  have hcounts := Bond.reported_countsRunning late hstate rfl
  simp only [State.modBond_get, if_true] at hrelease
  generalize ((s.bonds.get b).released p s.timestamp).reported late = q at *
  generalize hv : ({ s.modBond b (fun bd => bd.released p s.timestamp) with
    bonds := (s.modBond b fun bd => bd.released p s.timestamp).bonds.set b q
    irq := if late = true then (s.modBond b fun bd => bd.released p s.timestamp).irq
      else ((s.modBond b fun bd => bd.released p s.timestamp).raiseBond b .runningEntered).irq } : State) = v at hrelease
  have hbond : v.bonds.get b = q := by rw [← hv]; simp
  have hbufs : v.bufs = s.bufs := by rw [← hv]; rfl
  have hmending := Bond.countsRunning_not_mending hcounts
  rw [← hbond] at hrd hshape hlaneOf hcounts hmending
  have hread := State.handed_of_map (s := v) (f := fun i => (f i, false)) hmending fun i hi => by
    obtain ⟨n, rest, hlane, hentries⟩ := hlanes i hi
    exact ⟨n, rest, by rw [hlaneOf]; exact hlane, by simp [hrd], by rw [hbufs]; exact hentries⟩
  obtain ⟨row, ra, hshows, hpresented, hstanding, hrun, hrow⟩ := readSlotNow_firstRow (first := false) (late := late)
    hcounts (by rw [hrd]) (by rw [hrd]) hshape hread
  have hslot := takeSlot_noSeat (first := false) (late := late) (by rw [hrd]) (State.seatDue_of_not_mending hmending)
  refine ⟨row, ra, (v.popReadLanes b p.shape.lanes).bufs, hshows, hpresented, hstanding, hrun, fun i n hi hn => ?_,
    hrelease.trans (hslot.trans (hrow.trans ?_))⟩
  · obtain ⟨m, rest, hm, -⟩ := hread i hi
    rw [← hbufs]
    exact State.popReadLanes_head hi hm (by rw [hlaneOf]; exact hn)
  · rw [hrd, hbond, ← hv]
    simp only [State.modBond, State.popReadLanes, Four.set_set]
    cases late <;> rfl

/-- Settles O43: no release, the OVERFLOW that arrives before it, or the row of `takeRelease_row`. -/
theorem releaseStartsReading : Obligations.ReleaseStartsReading := by
  intro b p late s f hprofile
  refine ⟨fun h => congrArg Host.Outcome.next (takeRelease_notReached h late), fun e he hgt hnil =>
    congrArg Host.Outcome.next (takeRelease_pastDepth (ReleaseUnit.pastDepth_of_gt he hgt) hnil late),
    fun n e hreached he hgt hn hflight => ?_, fun hstate hcountdown hdue hdepth hlanes hflight => ?_⟩
  · have hfault := takeRelease_overflow late hreached (ReleaseUnit.pastDepth_of_gt he hgt) hn hflight
    have halign := (State.releaseReached_iff.mp hreached).1
    have hindex : ((s.withInFlight b []).bonds.get b).indexOf n = (s.bonds.get b).indexOf n := by
      rw [withInFlight_get]; rfl
    have htaken := takeFault_taken b .overflow (some n) (((s.withInFlight b []).bonds.get b).indexOf n) none
      (s.withInFlight b [])
    have hleaves := takeFault_leaves b .overflow (some n) (((s.withInFlight b []).bonds.get b).indexOf n) none
      (s.withInFlight b [])
    unfold takeLaneFault at hfault
    generalize takeFault b .overflow (some n) (((s.withInFlight b []).bonds.get b).indexOf n) none (s.withInFlight b [])
      = u at *
    obtain ⟨hstate, hrelease, hrd, hpresented, -, -⟩ := hleaves
    simp only [withInFlight_get, membersLocked_withInFlight] at hstate hrd hpresented
    refine ⟨u.withInFlight b [], congrArg Host.Outcome.next hfault, htaken.flag, fun hnone => ?_, by simpa using hstate,
      by simpa using hrelease, ?_, by simpa using hpresented, by simp, fun c hc => ?_,
      ⟨htaken.time.timestamp, htaken.time.refmon, htaken.time.slotDue, htaken.time.lineStarted, htaken.time.pending⟩,
      htaken.lanes, htaken.port⟩
    · have hfirst := (htaken.first (by simpa using hnone)).1
      rw [hindex] at hfirst
      simpa [halign, State.withInFlight] using hfirst
    · simpa [hrd] using ReadSide.departed_not_reading _ _
    · rw [withInFlight_otherBonds u b [] c hc, htaken.others c hc, withInFlight_otherBonds s b [] c hc]
  · have hpast : (s.bonds.get b).rel.pastDepth s.timestamp = false :=
      ReleaseUnit.pastDepth_eq_false.mpr fun e he => hdepth e he
    have hreached := State.releaseReached_iff.mpr ⟨hstate, hcountdown, hdue⟩
    obtain ⟨row, ra, bufs, hshows, hpresented, hstanding, hshape, hbufs, hrelease⟩ :=
      takeRelease_row hprofile hreached hpast hlanes hflight
    refine ⟨_, row, congrArg Host.Outcome.next hrelease, ?_⟩
    cases late with
    | true =>
      rw [Four.get_set, if_pos rfl]
      exact ⟨rfl, rfl, rfl, hshape, hpresented, hshows, hstanding, nofun, fun _ => ⟨hstate, rfl, rfl, rfl⟩, hbufs,
        fun c hc => by simp [hc], ⟨rfl, rfl, rfl, rfl, rfl⟩, rfl, rfl, rfl⟩
    | false =>
      rw [Four.get_set, if_pos rfl]
      refine ⟨rfl, rfl, rfl, hshape, hpresented, hshows, hstanding, fun _ => ⟨rfl, ?_, rfl, rfl⟩, nofun, hbufs,
        fun c hc => by simp [hc], ⟨rfl, rfl, rfl, rfl, rfl⟩, rfl, rfl, rfl⟩
      have hflag : (s.raiseBond b .runningEntered).bondFlag b .runningEntered = true := by simp [bondFlag_raiseBond]
      exact hflag

end Sys2Proof.Machine

/-! A unit time and a tick of the timebase (R37, R76, R106, R112, R113, R118, R142). -/

namespace Sys2Proof.Machine

/-! ## What arrives -/

theorem takeInFlight_otherBonds (b : BondId) (s : State) : State.OtherBonds b s (takeInFlight b s) := fun c hc => by
  obtain ⟨xs, hmoves⟩ := takeInFlight_moves b s
  rw [hmoves.others c hc, withInFlight_otherBonds s b xs c hc]

/-- Once everything has landed, nothing is on its way to any bond. -/
theorem landed_done (s : State) (b : BondId) : (s.landed.bonds.get b).inFlight = [] := by
  have h : ∀ (l : List BondId) (s : State), b ∈ l ∨ (s.bonds.get b).inFlight = [] →
      ((l.foldl (fun s c => takeInFlight c s) s).bonds.get b).inFlight = [] := fun l => by
    induction l with
    | nil => exact fun s h => h.resolve_left (by simp)
    | cons c rest ih =>
      refine fun s h => ih _ ?_
      by_cases hc : b = c
      · exact .inr (hc ▸ takeInFlight_done b s)
      · rw [takeInFlight_otherBonds c s b hc]
        exact h.imp_left fun hmem => (List.mem_cons.mp hmem).resolve_left hc
  exact h allBonds s (.inl (mem_allBonds b))

theorem takeNext_nil {b : BondId} {x : Sender} {s : State} (h : (s.bonds.get b).inFlight = []) : takeNext b x s = s := by
  simp [takeNext, h]

/-- With nothing on its way to any bond, or nothing named, nothing arrives. -/
theorem arrived_self {s : State} {arrivals : Option (List (BondId × Sender))}
    (h : (∀ b, (s.bonds.get b).inFlight = []) ∨ arrivals = some []) : s.arrived arrivals = s := by
  rcases h with h | rfl
  · cases arrivals with
    | none => exact landed_nil h
    | some picks =>
      show picks.foldl (fun s p => takeNext p.1 p.2 s) s = s
      induction picks with
      | nil => rfl
      | cons p rest ih => rw [List.foldl_cons, takeNext_nil (h p.1), ih]
  · rfl

/-! ## A bond in the next unit time -/

/-- A unit time moves the read side, the release unit's postponement and the port of a bond alone. -/
theorem Bond.nextUnit_frame (bd : Bond) (now : Word32) : bd.nextUnit now = { bd with
    rd := (bd.nextUnit now).rd
    rel := { bd.rel with postponed := (bd.nextUnit now).rel.postponed }
    ra := { bd.ra with presented := none, runShape := (bd.nextUnit now).ra.runShape } } := by
  have hphase : bd.nextPhase = { bd with
      rd := bd.nextPhase.rd, ra := { bd.ra with runShape := bd.nextPhase.ra.runShape } } := by
    unfold Bond.nextPhase
    split
    · rfl
    · rfl
    · split_ifs <;> rfl
  unfold Bond.nextUnit Bond.postpone
  dsimp only
  rw [hphase]
  split <;> rfl

theorem Bond.nextUnit_rd (bd : Bond) (now : Word32) :
    (bd.nextUnit now).rd = bd.nextPhase.rd ∧ (bd.nextUnit now).ra.runShape = bd.nextPhase.ra.runShape := by
  unfold Bond.nextUnit Bond.postpone
  dsimp only
  split <;> exact ⟨rfl, rfl⟩

/-- A release instant reached while the read side completes a sweep is postponed (R112). -/
theorem Bond.nextUnit_postponed (bd : Bond) (now : Word32) : (bd.nextUnit now).rel.postponed = true ↔
    bd.rel.postponed = true
      ∨ bd.rel.state = .countdown ∧ bd.rel.instant = some now ∧ (bd.nextUnit now).rd.state = .completing := by
  have hrel : bd.nextPhase.rel = bd.rel := by
    unfold Bond.nextPhase
    split
    · rfl
    · rfl
    · split_ifs <;> rfl
  rw [(bd.nextUnit_rd now).1]
  unfold Bond.nextUnit Bond.postpone
  dsimp only
  rw [hrel]
  split
  · rename_i h
    exact ⟨fun _ => .inr h, fun _ => rfl⟩
  · rename_i h
    rw [hrel]
    exact ⟨.inl, fun hor => hor.resolve_right h⟩

theorem Bond.nextPhase_idle {bd : Bond} (h : bd.rd.state = .idle) : bd.nextPhase = bd := by
  simp [Bond.nextPhase, h]

theorem Bond.nextPhase_reading {bd : Bond} (h : bd.rd.state = .reading) : bd.nextPhase = { bd with rd := { bd.rd with
    phase := if bd.runSweep ≤ bd.rd.phase then 0 else bd.rd.phase + 1, slotTaken := false } } := by
  simp [Bond.nextPhase, h]

theorem Bond.nextPhase_waiting {bd : Bond} (h : bd.rd.state = .completing) (hp : bd.rd.phase = 0) : bd.nextPhase = bd := by
  simp [Bond.nextPhase, h, hp]

theorem Bond.nextPhase_completing {bd : Bond} (h : bd.rd.state = .completing) (hp : 0 < bd.rd.phase)
    (hlt : bd.rd.phase < bd.runSweep) :
    bd.nextPhase = { bd with rd := { bd.rd with phase := bd.rd.phase + 1, slotTaken := false } } := by
  simp [Bond.nextPhase, h, Nat.ne_of_gt hp, hlt]

theorem Bond.nextPhase_postponed {bd : Bond} (h : bd.rd.state = .completing) (hp : 0 < bd.rd.phase)
    (hle : bd.runSweep ≤ bd.rd.phase) (hc : bd.rel.state = .countdown) (hpost : bd.rel.postponed = true) :
    bd.nextPhase = { bd with rd := { bd.rd with phase := 0, slotTaken := false } } := by
  simp [Bond.nextPhase, h, Nat.ne_of_gt hp, Nat.not_lt.mpr hle, hc, hpost]

theorem Bond.nextPhase_completed {bd : Bond} (h : bd.rd.state = .completing) (hp : 0 < bd.rd.phase)
    (hle : bd.runSweep ≤ bd.rd.phase) (hno : bd.rel.state ≠ .countdown ∨ bd.rel.postponed = false) :
    bd.nextPhase = bd.readIdle := by
  rcases hno with hno | hno <;> simp [Bond.nextPhase, h, Nat.ne_of_gt hp, Nat.not_lt.mpr hle, hno]

theorem advanceUnit_absent {arrivals : Option (List (BondId × Sender))} {s : State} (h : s.refmon.present = false) :
    advanceUnit arrivals s = s := by
  simp [advanceUnit, h]

theorem advanceUnit_present {arrivals : Option (List (BondId × Sender))} {s : State} (h : s.refmon.present = true) :
    advanceUnit arrivals s = { s.arrived arrivals with
      timestamp := s.timestamp + 1
      bonds := (s.arrived arrivals).bonds.mapIdx fun _ bd => bd.nextUnit (s.timestamp + 1) } := by
  have htime := (arrived_lanesStay s arrivals).time.timestamp
  simp only [advanceUnit, h, if_true, htime]

/-- Settles O14: what has arrived, and then each bond in the next unit time, by the state of its read side. -/
theorem unitTimeAdvancesCounterAndPhases : Obligations.UnitTimeAdvancesCounterAndPhases := by
  intro arrivals s
  refine ⟨fun h => congrArg Host.Outcome.next (advanceUnit_absent h), fun h => ?_⟩
  refine ⟨_, s.arrived arrivals, congrArg Host.Outcome.next (advanceUnit_present h), rfl, arrived_self, fun hall b => ?_, rfl,
    fun b => ?_⟩
  · subst hall
    rw [Four.get_mapIdx, Bond.nextUnit_frame]
    exact landed_done s b
  · simp only [Four.get_mapIdx]
    generalize (s.arrived arrivals).bonds.get b = bd
    obtain ⟨hrd, hshape⟩ := bd.nextUnit_rd (s.timestamp + 1)
    refine ⟨bd.nextUnit_frame _, bd.nextUnit_postponed _, fun h => ?_, fun h => ?_, fun h hp => ?_, fun h hp hlt => ?_,
      fun h hp hle hc hpost => ?_, fun h hp hle hno => ?_⟩ <;> rw [hrd, hshape]
    · rw [Bond.nextPhase_idle h]; exact ⟨rfl, rfl⟩
    · rw [Bond.nextPhase_reading h]; exact ⟨rfl, rfl⟩
    · rw [Bond.nextPhase_waiting h hp]; exact ⟨rfl, rfl⟩
    · rw [Bond.nextPhase_completing h hp hlt]; exact ⟨rfl, rfl⟩
    · rw [Bond.nextPhase_postponed h hp hle hc hpost]; exact ⟨rfl, rfl⟩
    · rw [Bond.nextPhase_completed h hp hle hno]; exact ⟨rfl, rfl⟩

/-! ## A tick of the timebase -/

/-- A running timer that has not reached its limit counts, and is due when it has (R76, R126). -/
theorem Timer.tick_running {t : Timer} {k l : Nat} (h : t = .running k l) (hlt : k < l) :
    t.tick = .running (k + 1) l ∧ (k + 1 = l → t.tick.due = true) := by
  subst h
  have htick : (Timer.running k l).tick = .running (k + 1) l := by simp [Timer.tick, hlt]
  exact ⟨htick, fun heq => by rw [htick, heq]; simp [Timer.due]⟩

/-- The expiries that a tick brings: those of the timers that are due. -/
theorem mem_dueCommands_of_bond {was s : State} {c : Instr} (b : BondId) (h : c ∈ (s.bonds.get b).dueCommands b) :
    c ∈ dueCommands was s := by
  have hmem : c ∈ allBonds.flatMap fun b => (s.bonds.get b).dueCommands b := List.mem_flatMap.mpr ⟨b, mem_allBonds b, h⟩
  simp only [dueCommands, List.mem_append]
  exact .inl (.inr hmem)

theorem holdTimeout_mem_dueCommands {was s : State} {b : BondId} (h : (s.bonds.get b).holdTimer.due = true) :
    Instr.holdTimeout b ∈ dueCommands was s := mem_dueCommands_of_bond b (by simp [Bond.dueCommands, h])

theorem callTimeout_mem_dueCommands {was s : State} {b : BondId} (h : (s.bonds.get b).callTimer.due = true) :
    Instr.callTimeout b ∈ dueCommands was s := mem_dueCommands_of_bond b (by simp [Bond.dueCommands, h])

theorem alignTimeout_mem_dueCommands {was s : State} {b : BondId} (h : (s.bonds.get b).alignTimer.due = true) :
    Instr.alignTimeout b ∈ dueCommands was s := mem_dueCommands_of_bond b (by simp [Bond.dueCommands, h])

theorem mendTimeout_mem_dueCommands {was s : State} {b : BondId} (h : (s.bonds.get b).mendTimer.due = true) :
    Instr.mendTimeout b ∈ dueCommands was s := mem_dueCommands_of_bond b (by simp [Bond.dueCommands, h])

theorem acqTimeout_mem_dueCommands {was s : State} {n : Lane} (h : (s.lanes.get n).acqTimer.due = true) :
    Instr.acqTimeout n ∈ dueCommands was s := by
  simp [dueCommands, mem_allLanes, h]

theorem snapshotTimeout_mem_dueCommands {was s : State} (h : s.snap.timer.due = true) :
    Instr.snapshotTimeout ∈ dueCommands was s := by
  simp [dueCommands, h]

theorem callWordSlot_mem_dueCommands {was s : State} (h : was.slotDue = true) : Instr.callWordSlot ∈ dueCommands was s := by
  simp [dueCommands, h]

theorem referenceGap_mem_dueCommands {was s : State} (h : was.refmon.gap < Config.gapTicks)
    (hgap : s.refmon.gap = Config.gapTicks) : Instr.referenceGap [] ∈ dueCommands was s := by
  simp [dueCommands, h, hgap]

/-- The gap that a tick makes a reference gap (R33). -/
theorem RefMonitor.tick_gap {r : RefMonitor} (h : r.gap + 1 = Config.gapTicks) : r.tick.gap = Config.gapTicks := by
  rw [RefMonitor.tick, if_pos (by omega)]
  exact h

/-- A timer that a tick counts, and the expiry that joins the queue when it is due. -/
theorem tick_timer {timer timer' : Timer} {c : Instr} {queue : List Instr} (htick : timer' = timer.tick)
    (hdue : timer'.due = true → c ∈ queue) {k l : Nat} (h : timer = .running k l) (hlt : k < l) :
    timer' = .running (k + 1) l ∧ (k + 1 = l → c ∈ queue) := by
  obtain ⟨hrunning, hexpires⟩ := Timer.tick_running h hlt
  exact ⟨htick.trans hrunning, fun heq => hdue (by rw [htick]; exact hexpires heq)⟩

@[simp] theorem countTick_bonds_get (s : State) (b : BondId) : (countTick s).bonds.get b = (s.bonds.get b).tick := by
  simp [countTick]

@[simp] theorem countTick_lanes_get (s : State) (n : Lane) :
    (countTick s).lanes.get n = { s.lanes.get n with acqTimer := (s.lanes.get n).acqTimer.tick } := by
  simp [countTick]

/-- Settles O2: `tick` is what has landed, `countTick` and the commands due. -/
theorem idleStepTicksTheTimebase : Obligations.IdleStepTicksTheTimebase := by
  intro s hidle
  have hstep : step s = .next (tick s) := by simp only [step, hidle]
  have hstay := landed_lanesStay s
  have hdone := landed_done s
  have hnil := landed_nil (s := s)
  refine ⟨tick s, s.landed, hstep, rfl, hnil, ?_⟩
  unfold tick
  generalize s.landed = d at *
  obtain ⟨hlanes, hsnap, hport, htime⟩ := hstay
  obtain ⟨htimestamp, hrefmon, hslot, -, -⟩ := htime
  rw [← hlanes, ← hsnap, ← hrefmon, ← hslot, ← hport, ← htimestamp]
  have hqueue : ∀ {c}, c ∈ dueCommands d (countTick d) → c ∈ (countTick d).pending ++ dueCommands d (countTick d) :=
    fun h => List.mem_append_right _ h
  have hbond := countTick_bonds_get d
  refine ⟨fun b => ?_, rfl, fun h => ?_, fun b k l => ?_, fun b k l => ?_, fun b k l => ?_, fun b k l => ?_, fun n k l => ?_,
    fun k l => ?_, fun h => ?_, rfl, rfl, rfl, rfl, rfl, fun b => ?_⟩
  · rw [hbond]; exact hdone b
  · exact hqueue (callWordSlot_mem_dueCommands h)
  · exact tick_timer (congrArg Bond.holdTimer (hbond b)) fun hd => hqueue (holdTimeout_mem_dueCommands hd)
  · exact tick_timer (congrArg Bond.callTimer (hbond b)) fun hd => hqueue (callTimeout_mem_dueCommands hd)
  · exact tick_timer (congrArg Bond.alignTimer (hbond b)) fun hd => hqueue (alignTimeout_mem_dueCommands hd)
  · exact tick_timer (congrArg Bond.mendTimer (hbond b)) fun hd => hqueue (mendTimeout_mem_dueCommands hd)
  · exact tick_timer (congrArg LaneRx.acqTimer (countTick_lanes_get d n)) fun hd => hqueue (acqTimeout_mem_dueCommands hd)
  · exact tick_timer rfl fun hd => hqueue (snapshotTimeout_mem_dueCommands hd)
  · exact hqueue (referenceGap_mem_dueCommands (by omega) (RefMonitor.tick_gap h))
  · rw [hbond]; rfl

end Sys2Proof.Machine

/-! What lands at a bond that has been released and has not taken its report yet (R75, R88, R112, R118, R146). -/

namespace Sys2Proof.Machine

/-! ## What lands -/

/-- A bond takes two messages on their way to it, the earlier one first. -/
theorem takeInFlight_pair {b : BondId} {x y : Notice} {s : State} (h : (s.bonds.get b).inFlight = [x, y]) :
    takeInFlight b s = (takeFirst b (bondTakes b x (s.withInFlight b [y]))).withInFlight b [] := by
  rw [takeInFlight_eq]
  simp only [takeSent, h, List.foldl]
  rw [show takeFirst b s = bondTakes b x (s.withInFlight b [y]) by simp only [takeFirst, h]; rfl]

/-- The message of another sender that comes first stays on its way (R75). -/
theorem takeNext_second {b : BondId} {x y : Notice} {s : State} (h : (s.bonds.get b).inFlight = [x, y])
    (hx : x.sender ≠ y.sender) : takeNext b y.sender s = bondTakes b y (s.withInFlight b [x]) := by
  have hbeq : (x.sender == y.sender) = false := by simp [hx]
  simp only [takeNext, h, List.find?, hbeq, beq_self_eq_true]
  simp [State.withInFlight, State.modBond, h, hbeq]

/-- A release report once its release unit is no longer RELEASED is taken without an effect, with all that comes after it
left on its way (R112). -/
theorem takeFirst_released_ended {b : BondId} {s : State} {rest : List Notice}
    (h : (s.bonds.get b).inFlight = .released :: rest) (hr : (s.bonds.get b).rel.state ≠ .released) :
    takeFirst b s = s.withInFlight b rest := by
  simp only [takeFirst, h]
  exact bondTakes_released_ended (by simpa using hr)

/-! ## A read side in its first slot -/

/-- A read side in phase 1 of a longer sweep, at its next unit time, departed or not. -/
theorem Bond.nextUnit_phase_two {bd : Bond} (now : Word32) (hst : bd.rd.state ≠ .idle) (hphase : bd.rd.phase = 1)
    (hsweep : 1 < bd.runSweep) : (bd.nextUnit now).rd.state = bd.rd.state ∧ (bd.nextUnit now).rd.phase = 2 := by
  rw [(bd.nextUnit_rd now).1]
  cases h : bd.rd.state with
  | idle => exact absurd h hst
  | reading =>
    rw [Bond.nextPhase_reading h]
    simp [h, hphase, Nat.not_le.mpr hsweep]
  | completing =>
    rw [Bond.nextPhase_completing h (by omega) (by omega)]
    simp [h, hphase]

/-- What a unit time leaves of a bond besides its read side and its port. -/
theorem Bond.nextUnit_fields (bd : Bond) (now : Word32) : (bd.nextUnit now).state = bd.state
    ∧ (bd.nextUnit now).alignTimer = bd.alignTimer ∧ (bd.nextUnit now).inFlight = bd.inFlight
    ∧ (bd.nextUnit now).fault = bd.fault ∧ (bd.nextUnit now).retrain = bd.retrain
    ∧ (bd.nextUnit now).rel.state = bd.rel.state ∧ (bd.nextUnit now).ra.standing = bd.ra.standing := by
  rw [bd.nextUnit_frame now]
  exact ⟨rfl, rfl, rfl, rfl, rfl, rfl, rfl⟩

/-- A read side whose first row has been read completes its sweep (R118). -/
theorem ReadSide.departed_first {rd : ReadSide} (sweep : Nat) (h : rd.state = .reading) (hphase : rd.phase = 1)
    (hslot : rd.slotTaken = true) : (rd.departed sweep).state = .completing ∧ (rd.departed sweep).phase = 1 := by
  have hin : rd.inSweep sweep = true := by simp [ReadSide.inSweep, hphase, hslot]
  simp [ReadSide.departed, h, hin, hphase]

/-- The state after the release report is taken in ALIGNING, with `xs` on its way still (R88). -/
def State.enteredRunning (s : State) (b : BondId) (xs : List Notice) : State :=
  ((s.withInFlight b xs).modBond b Bond.toRunning).raiseBond b .runningEntered

theorem bondTakes_released_withInFlight {b : BondId} {s : State} (xs : List Notice) (h : (s.bonds.get b).state = .aligning)
    (hr : (s.bonds.get b).rel.state = .released) :
    bondTakes b .released (s.withInFlight b xs) = s.enteredRunning b xs :=
  bondTakes_released (by simpa using h) (by simpa using hr)

theorem State.enteredRunning_get (s : State) (b : BondId) (xs : List Notice) :
    (s.enteredRunning b xs).bonds.get b = { s.bonds.get b with inFlight := xs, state := .running, alignTimer := .stopped } := by
  simp [State.enteredRunning, Bond.toRunning]

theorem State.enteredRunning_flag (s : State) (b : BondId) (xs : List Notice) :
    (s.enteredRunning b xs).bondFlag b .runningEntered = true := by
  simp [State.enteredRunning, bondFlag_raiseBond]

/-- A unit time after which a bond has entered RUNNING by the report that arrived, with `xs` on its way still. -/
theorem advanceUnit_enteredRunning {b : BondId} {s u : State} {arrivals : Option (List (BondId × Sender))} {xs : List Notice}
    (hpresent : s.refmon.present = true) (harrived : s.arrived arrivals = u)
    (hbond : u.bonds.get b = { s.bonds.get b with inFlight := xs, state := .running, alignTimer := .stopped })
    (hreading : (s.bonds.get b).rd.state = .reading) (hphase : (s.bonds.get b).rd.phase = 1)
    (hsweep : 1 < (s.bonds.get b).runSweep) :
    let t := advanceUnit arrivals s
    (t.bonds.get b).state = .running ∧ (t.bonds.get b).alignTimer = .stopped ∧ (t.bonds.get b).inFlight = xs
    ∧ (t.bonds.get b).fault = (s.bonds.get b).fault ∧ (t.bonds.get b).rd.state = .reading ∧ (t.bonds.get b).rd.phase = 2
    ∧ (t.bonds.get b).ra.standing = (s.bonds.get b).ra.standing
    ∧ t = { u with timestamp := s.timestamp + 1, bonds := t.bonds } := by
  rw [advanceUnit_present hpresent, harrived]
  simp only [Four.get_mapIdx, hbond]
  generalize hq : { s.bonds.get b with inFlight := xs, state := .running, alignTimer := .stopped } = q
  have hrd : q.rd = (s.bonds.get b).rd ∧ q.runSweep = (s.bonds.get b).runSweep := by rw [← hq]; exact ⟨rfl, rfl⟩
  obtain ⟨hstate, htimer, hflight, hfault, -, -, hstanding⟩ := q.nextUnit_fields (s.timestamp + 1)
  obtain ⟨hreads, htwo⟩ := q.nextUnit_phase_two (s.timestamp + 1) (by rw [hrd.1, hreading]; exact nofun)
    (by rw [hrd.1]; exact hphase) (by rw [hrd.2]; exact hsweep)
  rw [hstate, htimer, hflight, hfault, hstanding, hreads, htwo, hrd.1, hreading, ← hq]
  exact ⟨rfl, rfl, rfl, rfl, rfl, rfl, rfl, trivial⟩

/-- A fault raises FAULT and HALTED alone (R55, R94, R95). -/
theorem takeFault_bondFlag_other (b : BondId) (cause : FaultCause) (lane : Option Lane) (index : Option Index)
    (detail : Option Detail) (s : State) {f : BondFlag} (hfault : f ≠ .fault) (hhalted : f ≠ .halted) :
    (takeFault b cause lane index detail s).bondFlag b f = s.bondFlag b f := by
  have hcapture : (captureFault b cause lane index detail s).bondFlag b f = s.bondFlag b f := by
    simp only [captureFault, bondFlag_raiseBond, hfault, decide_false, Bool.and_false, Bool.or_false]
    rfl
  unfold takeFault
  dsimp only
  split
  · rw [(enterHolding_effect b _).1]
    exact hcapture
  · simp only [enterHalted, bondFlag_raiseBond, hhalted, decide_false, Bool.and_false, Bool.or_false]
    exact hcapture

/-- A fault that lands before the release report: the fault is taken in ALIGNING, and the report has no effect then. -/
theorem takeInFlight_fault_released {b : BondId} {n : Lane} {cause : LossCause} {s : State}
    (h : (s.bonds.get b).state = .aligning) (hn : (s.bonds.get b).cfg.isMember n = true)
    (hflight : (s.bonds.get b).inFlight = [.lockLost n cause, .released]) :
    takeInFlight b s =
      (takeFault b cause.fault (some n) ((s.bonds.get b).indexOf n) none (s.withInFlight b [.released])).withInFlight b [] := by
  have hindex : ((s.withInFlight b [.released]).bonds.get b).indexOf n = (s.bonds.get b).indexOf n := by
    rw [withInFlight_get]; rfl
  rw [takeInFlight_pair hflight, bondTakes_lockLost_aligning (by simpa using h) (by simpa using hn)]
  unfold takeLaneFault
  rw [hindex]
  have htaken := takeFault_taken b cause.fault (some n) ((s.bonds.get b).indexOf n) none (s.withInFlight b [.released])
  have hleft := takeFault_leaves b cause.fault (some n) ((s.bonds.get b).indexOf n) none (s.withInFlight b [.released])
  rw [takeFirst_released_ended (htaken.inFlight.trans (by rw [withInFlight_get]; rfl)) (by rw [hleft.release]; exact nofun),
    State.withInFlight_withInFlight]

/-- Settles O44: what lands is the report alone, a fault and then the report, or the report ahead of the lock loss. -/
theorem faultBeforeTheReleaseReportKeepsTheBondOutOfRunning :
    Obligations.FaultBeforeTheReleaseReportKeepsTheBondOutOfRunning := by
  intro b s hpresent hothers haligning hreleased hreading hphase hslot hsweep
  refine ⟨fun hflight => ?_, fun n cause hn hflight => ?_, fun n cause hflight => ?_⟩
  · have harrived : s.arrived none = (s.enteredRunning b []).withInFlight b [] :=
      (landed_single hothers).trans ((takeInFlight_single hflight).trans
        (congrArg (State.withInFlight · b []) (bondTakes_released_withInFlight [] haligning hreleased)))
    obtain ⟨hstate, htimer, hnone, -, hreads, htwo, hstanding, hframe⟩ := advanceUnit_enteredRunning hpresent harrived
      (by rw [withInFlight_get, State.enteredRunning_get]) hreading hphase hsweep
    refine ⟨_, rfl, hstate, ?_, htimer, hreads, htwo, hstanding, hnone, ?_, ?_, ?_, ?_⟩ <;> rw [hframe]
    · exact s.enteredRunning_flag b []
    all_goals rfl
  · have harrived : s.arrived none = _ :=
      (landed_single hothers).trans (takeInFlight_fault_released haligning hn hflight)
    have htaken := takeFault_taken b cause.fault (some n) ((s.bonds.get b).indexOf n) none (s.withInFlight b [.released])
    have hleft := takeFault_leaves b cause.fault (some n) ((s.bonds.get b).indexOf n) none (s.withInFlight b [.released])
    have hflag := takeFault_bondFlag_other b cause.fault (some n) ((s.bonds.get b).indexOf n) none
      (s.withInFlight b [.released]) (f := .runningEntered) nofun nofun
    generalize takeFault b cause.fault (some n) ((s.bonds.get b).indexOf n) none (s.withInFlight b [.released]) = u at *
    obtain ⟨hstate, hrelease, hrd, -, hstanding, hshape⟩ := hleft
    simp only [withInFlight_get, membersLocked_withInFlight] at hstate hrd hshape
    obtain ⟨hcompleting, hone⟩ := ReadSide.departed_first (s.bonds.get b).runSweep hreading hphase hslot
    have hrun : (u.bonds.get b).runSweep = (s.bonds.get b).runSweep := by
      unfold Bond.runSweep
      rw [hshape hcompleting]
    change (u.bonds.get b).rd = (s.bonds.get b).rd.departed (s.bonds.get b).runSweep at hrd
    obtain ⟨hst, -, hnone, hfault, hretrain, hrel, hstand⟩ := { u.bonds.get b with inFlight := [] }.nextUnit_fields (s.timestamp + 1)
    obtain ⟨hcompletes, htwo⟩ := { u.bonds.get b with inFlight := [] }.nextUnit_phase_two (s.timestamp + 1)
      (by rw [hrd, hcompleting]; exact nofun) (by rw [hrd]; exact hone) (by rw [← hrun] at hsweep; exact hsweep)
    refine ⟨_, congrArg Host.Outcome.next (advanceUnit_present hpresent), ?_⟩
    rw [harrived]
    simp only [Four.get_mapIdx, withInFlight_get]
    rw [hst, hnone, hfault, hretrain, hrel, hstand, hcompletes, htwo]
    refine ⟨htaken.flag, hflag, fun hempty => ?_, fun hlt => ⟨?_, ?_⟩, fun hle => ?_, hrelease, ?_, rfl, hstanding, rfl, trivial,
      htaken.lanes⟩
    · have hfirst := (htaken.first (by simpa using hempty)).1
      simpa [haligning, State.withInFlight] using hfirst
    · exact hstate.trans (if_neg (Nat.not_le.mpr hlt))
    · simpa using (htaken.retrains (by simpa using hlt)).1
    · exact hstate.trans (if_pos hle)
    · exact (congrArg ReadSide.state hrd).trans hcompleting
  · have harrived : s.arrived (some [(b, .readSide)]) = s.enteredRunning b [.lockLost n cause] :=
      (takeNext_second hflight (by simp [Notice.sender])).trans (bondTakes_released_withInFlight _ haligning hreleased)
    obtain ⟨hstate, htimer, hleft, hfault, hreads, htwo, hstanding, hframe⟩ := advanceUnit_enteredRunning hpresent harrived
      (State.enteredRunning_get s b _) hreading hphase hsweep
    refine ⟨_, rfl, hstate, ?_, hleft, hfault, hreads, htwo, hstanding, ?_, ?_⟩ <;> rw [hframe]
    · exact s.enteredRunning_flag b _
    all_goals rfl

end Sys2Proof.Machine

/-! The completion of a seat at its join slot (R64, R114, R117, R136). -/

namespace Sys2Proof.Machine

/-! ## What the completion of a seat makes of the bond -/

theorem BondConfig.replaceMember_isMember (cfg : BondConfig) (out new n : Lane) :
    (cfg.replaceMember out new).isMember n = (decide (n = new) || (cfg.isMember n && decide (n ≠ out))) := by
  have hbit : ∀ m : Lane, (BitVec.twoPow 8 m.val).getLsbD n.val = decide (n = m) := fun m => by
    rw [BitVec.getLsbD_twoPow]
    have := m.isLt
    simp [Fin.ext_iff, eq_comm, this]
  simp only [BondConfig.isMember, BondConfig.replaceMember, BitVec.getLsbD_or, BitVec.getLsbD_and, BitVec.getLsbD_not, hbit,
    n.isLt, decide_true, Bool.true_and, decide_not]
  exact Bool.or_comm _ _

/-- The lanes of the seated bond: the joining lane at k, and elsewhere the lane that was there (R136). -/
theorem Bond.seated_laneOf {bd : Bond} {m : MendRec} (hm : bd.mend = some m) (hprogress : m.outcome = .inProgress)
    (hlanes : bd.MendLanesOk) (hmap : bd.map.isSome = true) (i : Index) :
    (bd.seated m).laneOf i = if i = m.k then some m.joining else bd.laneOf i := by
  obtain ⟨htrigger, -, hrejoin⟩ := hlanes m hm hprogress
  obtain ⟨mp, hmp⟩ := Option.isSome_iff_exists.mp hmap
  cases hmethod : m.method with
  | rejoin =>
    have hsame : (bd.seated m).laneOf i = bd.laneOf i := by simp [Bond.seated, Bond.laneOf, hmethod]
    rw [hsame, hrejoin hmethod]
    split
    next hi => rw [hi, htrigger]
    next => rfl
  | move => simp [Bond.seated, Bond.laneOf, hmethod, hmp, Eight.get_set]

/-- The joining lane is a read lane again, and a lane that was one stays one (R117, R136). -/
theorem Bond.seated_readLane {bd : Bond} {m : MendRec} {i : Index} {n : Lane}
    (hlane : (bd.seated m).laneOf i = some n) (h : n = m.joining ∨ bd.rd.withdrawn.getLsbD n.val = false) :
    (bd.seated m).readLane i = some n := by
  refine Bond.readLane_eq (by exact nofun) hlane ?_
  change (bd.rd.withdrawn &&& ~~~BitVec.twoPow 8 m.joining.val).getLsbD n.val = false
  rw [BitVec.getLsbD_and]
  rcases h with rfl | h
  · simp
  · rw [h, Bool.false_and]

theorem completeSeat_eq {b : BondId} {s : State} {m : MendRec} (hm : (s.bonds.get b).mend = some m) :
    completeSeat b s = ((s.modBond b fun bd => bd.seated m).raiseBond b .mendDone).raiseBond b .runningEntered := by
  simp [completeSeat, hm]

theorem completeSeat_get {b : BondId} {s : State} {m : MendRec} (hm : (s.bonds.get b).mend = some m) :
    (completeSeat b s).bonds.get b = (s.bonds.get b).seated m := by
  simp [completeSeat_eq hm]

theorem completeSeat_flags {b : BondId} {s : State} {m : MendRec} (hm : (s.bonds.get b).mend = some m) :
    (completeSeat b s).bondFlag b .mendDone = true ∧ (completeSeat b s).bondFlag b .runningEntered = true := by
  simp [completeSeat_eq hm, bondFlag_raiseBond]

/-- A seat at its join slot, with an untainted unit at the head of every index's buffer: row 0 is read in the same step. -/
theorem takeSlot_seatRow {b : BondId} {first late : Bool} {s : State} {sh : Shape} {m : MendRec} {f : Index → Word}
    (hdue : s.seatDue b = true) (hm : (s.bonds.get b).mend = some m) (hprogress : m.outcome = .inProgress)
    (hlanes : (s.bonds.get b).MendLanesOk) (hmap : (s.bonds.get b).map.isSome = true)
    (hphase : (s.bonds.get b).rd.phase = 1) (hshape : (s.bonds.get b).ra.runShape = some sh)
    (hheads : ∀ i : Index, i.val < sh.lanes → ∃ n rest,
      (if i = m.k then some m.joining else (s.bonds.get b).laneOf i) = some n
      ∧ (i ≠ m.k → n ≠ m.joining ∧ (s.bonds.get b).rd.withdrawn.getLsbD n.val = false)
      ∧ (s.bufs.get n).entries = .unit (f i) false :: rest) :
    ∃ row ra, row.Shows sh 0 true false f ∧ ra.presented = some row
      ∧ takeSlot b first late s = { completeSeat b s with
          bufs := ((completeSeat b s).popReadLanes b sh.lanes).bufs
          bonds := (completeSeat b s).bonds.set b { (s.bonds.get b).seated m with
            rd := { ((s.bonds.get b).seated m).rd with slotTaken := true, whole := true }, ra := ra } } := by
  obtain ⟨-, -, hreading, hslot⟩ := State.seatDue_iff.mp hdue
  have hbond := completeSeat_get hm
  have hbufs : (completeSeat b s).bufs = s.bufs := by rw [completeSeat_eq hm]; rfl
  have hread : ∀ i : Index, i.val < sh.lanes → ∃ n rest, ((completeSeat b s).bonds.get b).readLane i = some n
      ∧ ((completeSeat b s).bufs.get n).entries = .unit (f i) false :: rest := by
    intro i hi
    obtain ⟨n, rest, hlane, hstays, hhead⟩ := hheads i hi
    rw [hbond, hbufs]
    refine ⟨n, rest, Bond.seated_readLane ((Bond.seated_laneOf hm hprogress hlanes hmap i).trans hlane) ?_, hhead⟩
    by_cases hk : i = m.k
    · rw [if_pos hk] at hlane
      exact .inl (Option.some.inj hlane).symm
    · exact .inr (hstays hk).2
  obtain ⟨row, ra, hshows, hpresented, -, -, hrow⟩ := readSlotNow_firstRow (first := first) (late := late)
    (by rw [hbond]; rfl) (by rw [hbond]; exact hreading) (by rw [hbond]; exact hphase) (by rw [hbond]; exact hshape) hread
  refine ⟨row, ra, hshows, hpresented, (takeSlot_seat hslot hdue).trans (hrow.trans ?_)⟩
  rw [hbond]

/-- Settles O50: `takeSlot_seatRow` gives the state once, and its fields are those of `Bond.seated`. -/
theorem seatCompletesAtItsJoinSlot : Obligations.SeatCompletesAtItsJoinSlot := by
  intro b late s sh m d f bd
  refine ⟨fun hdue => ?_, fun hdue hm hprogress hlanes hmap hoffset hphase hshape hheads => ?_⟩
  · simp [exec, execSeatComplete, hdue]
  obtain ⟨row, ra, hshows, hpresented, hstep⟩ := takeSlot_seatRow (first := false) (late := late) hdue hm hprogress
    hlanes hmap hphase hshape hheads
  have hexec : exec (.seatComplete b late) s = .next (takeSlot b false late s) := by
    simp [exec, execSeatComplete, hdue]
  obtain ⟨hdone, hentered⟩ := completeSeat_flags hm
  have hlaneOf := Bond.seated_laneOf hm hprogress hlanes hmap
  refine ⟨_, row, hexec.trans (congrArg Host.Outcome.next hstep), ?_⟩
  have hseat := completeSeat_eq hm
  have hu := completeSeat_get hm
  have hother : State.OtherBonds b s (completeSeat b s) := fun c hc => by simp [hseat, hc]
  have hfields : (completeSeat b s).bufs = s.bufs ∧ (completeSeat b s).lanes = s.lanes ∧ (completeSeat b s).rolls = s.rolls
      ∧ (completeSeat b s).port = s.port ∧ (completeSeat b s).snap = s.snap ∧ State.SameTime s (completeSeat b s) := by
    rw [hseat]
    exact ⟨rfl, rfl, rfl, rfl, rfl, ⟨rfl, rfl, rfl, rfl, rfl⟩⟩
  obtain ⟨hbufs, hlane, hroll, hport, hsnap, htime⟩ := hfields
  generalize completeSeat b s = u at *
  rw [Four.get_set, if_pos rfl]
  refine ⟨rfl, rfl, rfl, rfl, rfl, rfl, hdone, hentered, ?_, ?_, rfl, rfl, fun hrejoin => ?_, fun hmove => ?_, hpresented,
    hshows, hphase, rfl, fun c hc => ?_, ⟨htime.timestamp, htime.refmon, htime.slotDue, htime.lineStarted, htime.pending⟩,
    hlane, hroll, hport, hsnap, fun n hn => ?_⟩
  · simp [Bond.seated, hoffset, bd]
  · simp [Bond.seated, hoffset, bd]
  · simp [Bond.seated, hrejoin, bd]
  · refine ⟨(hlaneOf m.k).trans (if_pos rfl), ?_, fun n => ?_⟩
    · simp [Bond.seated, hmove, BondConfig.replaceMember]
    · simpa [Bond.seated, hmove] using BondConfig.replaceMember_isMember bd.cfg m.trigger m.joining n
  · rw [Four.get_set, if_neg hc]
    exact hother c hc
  · rw [← hbufs]
    refine State.popReadLanes_other fun i hi heq => hn i hi ?_
    rwa [hu, hlaneOf i] at heq

end Sys2Proof.Machine

/-! Epoch events, as each release unit takes them in turn (R110, R111, R120). -/

namespace Sys2Proof.Machine

/-! ## What an epoch event leaves alone -/

/-- What no release unit changes with an epoch event: it keeps the flags of every bond. -/
structure EpochFrame (s t : State) : Prop where
  time : State.SameTime s t
  lanes : t.lanes = s.lanes
  port : t.port = s.port
  snap : t.snap = s.snap
  keepsFlags : ∀ c f, s.bondFlag c f = true → t.bondFlag c f = true

namespace EpochFrame

theorem refl (s : State) : EpochFrame s s := ⟨⟨rfl, rfl, rfl, rfl, rfl⟩, rfl, rfl, rfl, fun _ _ => id⟩

theorem trans {s t u : State} (h : EpochFrame s t) (k : EpochFrame t u) : EpochFrame s u :=
  ⟨h.time.trans k.time, k.lanes.trans h.lanes, k.port.trans h.port, k.snap.trans h.snap,
    fun c f hf => k.keepsFlags c f (h.keepsFlags c f hf)⟩

theorem of_lanesStay {s t : State} (h : LanesStay s t) : EpochFrame s t := ⟨h.time, h.lanes, h.port, h.snap, h.keepsFlags⟩

theorem modBond (s : State) (b : BondId) (f : Bond → Bond) : EpochFrame s (s.modBond b f) :=
  ⟨⟨rfl, rfl, rfl, rfl, rfl⟩, rfl, rfl, rfl, fun _ _ => id⟩

theorem raiseBond (s : State) (b : BondId) (f : BondFlag) : EpochFrame s (s.raiseBond b f) :=
  ⟨⟨rfl, rfl, rfl, rfl, rfl⟩, rfl, rfl, rfl, (raiseBond_moves s b f).keepsFlags⟩

end EpochFrame

theorem compareEpoch_frame (b : BondId) (late : Bool) (s : State) : EpochFrame s (compareEpoch b late s) := by
  unfold compareEpoch
  dsimp only
  split
  · exact .modBond s b _
  · split
    · exact (((EpochFrame.modBond s b _).trans (.modBond _ b _)).trans (.raiseBond _ b _)).trans
        (.of_lanesStay (tell_lanesStay _ b _ late))
    · exact .modBond s b _

theorem releaseUnitTakesEpoch_frame (b : BondId) (late : Bool) (s : State) :
    EpochFrame s (releaseUnitTakesEpoch b late s) := by
  unfold releaseUnitTakesEpoch
  dsimp only
  split
  · exact .refl s
  · split
    · exact .refl s
    · exact .refl s
    · exact .refl s
    · exact .modBond s b _
    · split
      · exact compareEpoch_frame b late s
      · exact .refl s

/-- The release units of a list of bonds take the epoch event in turn. -/
def takeEpochAt (late : List BondId) (bonds : List BondId) (s : State) : State :=
  bonds.foldl (fun s b => releaseUnitTakesEpoch b (late.contains b) s) s

theorem takeEpoch_eq_takeEpochAt {late : List BondId} {s : State} (h : s.refmon.present = true) :
    takeEpoch late s = takeEpochAt late allBonds s := by
  simp [takeEpoch, takeEpochAt, h]

theorem takeEpochAt_frame (late bonds : List BondId) (s : State) : EpochFrame s (takeEpochAt late bonds s) :=
  List.foldlRecOn (motive := fun t : State => EpochFrame s t) bonds _ (.refl s)
    fun t ht b _ => ht.trans (releaseUnitTakesEpoch_frame b _ t)

theorem takeEpochAt_other {late bonds : List BondId} {b : BondId} (h : b ∉ bonds) (s : State) :
    (takeEpochAt late bonds s).bonds.get b = s.bonds.get b :=
  List.foldlRecOn (motive := fun t : State => t.bonds.get b = s.bonds.get b) bonds _ rfl
    fun t ht c hc => (releaseUnitTakesEpoch_others c _ t b fun heq => h (heq ▸ hc)).trans ht

/-- Among the bonds, each release unit finds its own bond as the epoch event found it, and no later one moves it. -/
theorem takeEpoch_at {late : List BondId} {s : State} (h : s.refmon.present = true) (b : BondId) :
    ∃ u, u.bonds.get b = s.bonds.get b ∧ u.timestamp = s.timestamp
      ∧ (takeEpoch late s).bonds.get b = (releaseUnitTakesEpoch b (late.contains b) u).bonds.get b
      ∧ ∀ f, (releaseUnitTakesEpoch b (late.contains b) u).bondFlag b f = true → (takeEpoch late s).bondFlag b f = true := by
  have hmem : b ∈ allBonds := by revert b; decide
  have hnodup : allBonds.Nodup := by decide
  obtain ⟨before, after, hsplit⟩ := List.append_of_mem hmem
  rw [hsplit] at hnodup
  obtain ⟨-, hafter, hbefore⟩ := List.nodup_append.mp hnodup
  have hnot : b ∉ before := fun hb => hbefore b hb b (List.mem_cons_self ..) rfl
  have hturn : takeEpoch late s = takeEpochAt late after
      (releaseUnitTakesEpoch b (late.contains b) (takeEpochAt late before s)) := by
    rw [takeEpoch_eq_takeEpochAt h, hsplit, takeEpochAt, List.foldl_append, List.foldl_cons]
    rfl
  refine ⟨takeEpochAt late before s, takeEpochAt_other hnot s, (takeEpochAt_frame late before s).time.timestamp, ?_, ?_⟩
  · rw [hturn, takeEpochAt_other (List.nodup_cons.mp hafter).1]
  · rw [hturn]
    exact (takeEpochAt_frame late after _).keepsFlags b

/-! ## What one release unit makes of an epoch event -/

theorem compareEpoch_near {b : BondId} {s : State} {q : Nat} (late : Bool) (hq : (s.bonds.get b).rel.releasePhase = some q)
    (h : phaseDistance (s.bonds.get b).rd.phase q (s.bonds.get b).runSweep ≤ (s.bonds.get b).cfg.epochTolerance.toNat) :
    compareEpoch b late s = s.modBond b fun bd => { bd with rel := { bd.rel with lastPhase := some bd.rd.phase } } := by
  simp only [compareEpoch, hq, if_neg (Nat.not_lt.mpr h)]
  simp [State.modBond]

/-- The bond once a drift is counted. -/
def Bond.drifted (bd : Bond) : Bond :=
  { bd with epochDrifts := satInc bd.epochDrifts, rel := { bd.rel with lastPhase := some bd.rd.phase } }

theorem compareEpoch_far {b : BondId} {s : State} {q : Nat} (late : Bool) (hq : (s.bonds.get b).rel.releasePhase = some q)
    (h : (s.bonds.get b).cfg.epochTolerance.toNat < phaseDistance (s.bonds.get b).rd.phase q (s.bonds.get b).runSweep) :
    compareEpoch b late s = ((s.modBond b Bond.drifted).raiseBond b .epochDrift).tell b .epochDrift late := by
  simp only [compareEpoch, hq, if_pos h]
  simp [State.modBond, Four.set_set, Bond.drifted]

theorem bondTakes_epochDrift_report {b : BondId} {s : State} (h : (s.bonds.get b).cfg.epochPolicy = .report) :
    bondTakes b .epochDrift s = s := by
  simp [bondTakes, bondTakesEpochDrift, h]

theorem bondTakes_epochDrift_retrain {b : BondId} {s : State} (hstate : (s.bonds.get b).state = .running)
    (h : (s.bonds.get b).cfg.epochPolicy = .retrain) : bondTakes b .epochDrift s = takeFault b .epochDrift none none none s := by
  simp [bondTakes, bondTakesEpochDrift, h, hstate]

theorem releaseUnitTakesEpoch_passes {b : BondId} {s : State} (late : Bool)
    (h : (s.bonds.get b).rel.state = .markWait ∨ (s.bonds.get b).rel.state = .countdown
      ∨ (s.bonds.get b).rel.state = .idle) : releaseUnitTakesEpoch b late s = s := by
  unfold releaseUnitTakesEpoch
  dsimp only
  split
  · rfl
  · rcases h with h | h | h <;> rw [h]

theorem releaseUnitTakesEpoch_released {b : BondId} {s : State} (late : Bool) (hmode : (s.bonds.get b).cfg.releaseMode = .timed)
    (h : (s.bonds.get b).rel.state = .released) :
    releaseUnitTakesEpoch b late s = if (s.bonds.get b).state = .running then compareEpoch b late s else s := by
  simp only [releaseUnitTakesEpoch, hmode, h]

theorem releaseUnitTakesEpoch_waiting {b : BondId} {s : State} (late : Bool) (hmode : (s.bonds.get b).cfg.releaseMode = .timed)
    (h : (s.bonds.get b).rel.state = .epochWait) :
    releaseUnitTakesEpoch b late s = s.modBond b fun bd => { bd with rel := bd.rel.fixByEpoch bd.cfg s.timestamp } := by
  simp only [releaseUnitTakesEpoch, hmode, h]

/-- A drift whose report stays on its way: it is counted, flagged, and nothing else of the bond moves (R120). -/
theorem compareEpoch_far_late {b : BondId} {s : State} {q : Nat} (hq : (s.bonds.get b).rel.releasePhase = some q)
    (h : (s.bonds.get b).cfg.epochTolerance.toNat < phaseDistance (s.bonds.get b).rd.phase q (s.bonds.get b).runSweep) :
    (compareEpoch b true s).bonds.get b
      = { (s.bonds.get b).drifted with inFlight := (s.bonds.get b).inFlight ++ [.epochDrift] } := by
  rw [compareEpoch_far true hq h, tell_late]
  simp [Bond.drifted]

theorem compareEpoch_far_now {b : BondId} {s : State} {q : Nat} (hq : (s.bonds.get b).rel.releasePhase = some q)
    (h : (s.bonds.get b).cfg.epochTolerance.toNat < phaseDistance (s.bonds.get b).rd.phase q (s.bonds.get b).runSweep)
    (hflight : s.inFlightFrom b .readSide = false) :
    compareEpoch b false s = bondTakes b .epochDrift ((s.modBond b Bond.drifted).raiseBond b .epochDrift) :=
  (compareEpoch_far false hq h).trans (tell_taken (by simpa [State.inFlightFrom, Notice.sender, Bond.drifted] using hflight))

theorem compareEpoch_far_flag {b : BondId} {s : State} {q : Nat} (late : Bool)
    (hq : (s.bonds.get b).rel.releasePhase = some q)
    (h : (s.bonds.get b).cfg.epochTolerance.toNat < phaseDistance (s.bonds.get b).rd.phase q (s.bonds.get b).runSweep) :
    (compareEpoch b late s).bondFlag b .epochDrift = true := by
  rw [compareEpoch_far late hq h]
  exact (tell_lanesStay _ b _ late).keepsFlags b _ (by simp [bondFlag_raiseBond])

/-- A drift that the bond takes in RUNNING under policy RETRAIN is a fault (R89, R120). -/
theorem compareEpoch_far_retrain {b : BondId} {s : State} {q : Nat} (hq : (s.bonds.get b).rel.releasePhase = some q)
    (h : (s.bonds.get b).cfg.epochTolerance.toNat < phaseDistance (s.bonds.get b).rd.phase q (s.bonds.get b).runSweep)
    (hflight : s.inFlightFrom b .readSide = false) (hstate : (s.bonds.get b).state = .running)
    (hpolicy : (s.bonds.get b).cfg.epochPolicy = .retrain) :
    ∃ u, u.bonds.get b = (s.bonds.get b).drifted ∧ u.timestamp = s.timestamp
      ∧ compareEpoch b false s = takeFault b .epochDrift none none none u := by
  refine ⟨(s.modBond b Bond.drifted).raiseBond b .epochDrift, by simp, rfl, (compareEpoch_far_now hq h hflight).trans ?_⟩
  exact bondTakes_epochDrift_retrain (by simpa [Bond.drifted] using hstate) (by simpa [Bond.drifted] using hpolicy)

/-- Settles O42: `takeEpoch_at` finds the one release unit that moves the bond, and each state of that unit is a lemma. -/
theorem epochEventFixesOrCompares : Obligations.EpochEventFixesOrCompares := by
  intro late s
  refine ⟨fun habsent => ?_, fun hpresent => ⟨takeEpoch late s, rfl, ?_⟩⟩
  · exact congrArg Host.Outcome.next (if_neg (by simp [habsent]))
  have hframe := takeEpochAt_frame late allBonds s
  rw [← takeEpoch_eq_takeEpochAt hpresent] at hframe
  refine ⟨hframe.time, hframe.lanes, hframe.port, hframe.snap, fun b hmode => ?_⟩
  obtain ⟨u, hu, hnow, hbond, hflags⟩ := takeEpoch_at (late := late) hpresent b
  rw [hbond, ← hu, ← hnow]
  rw [← hu] at hmode
  refine ⟨fun hwait => ?_, fun hstate => ?_, fun hreleased hstate => ?_, fun q hreleased hstate hq => ?_⟩
  · rw [releaseUnitTakesEpoch_waiting _ hmode hwait]
    simp [ReleaseUnit.fixByEpoch, Config.releaseMargin]
  · rw [releaseUnitTakesEpoch_passes _ hstate]
  · rw [releaseUnitTakesEpoch_released _ hmode hreleased, if_neg hstate]
  · have htakes := releaseUnitTakesEpoch_released (late.contains b) hmode hreleased
    rw [if_pos hstate] at htakes
    rw [htakes]
    rw [htakes] at hflags
    refine ⟨fun hnear => ?_, fun hfar => ⟨hflags _ (compareEpoch_far_flag _ hq hfar), fun hlate => ?_, fun hnow' hflight => ?_⟩⟩
    · rw [compareEpoch_near _ hq hnear]
      simp
    · rw [hlate, compareEpoch_far_late hq hfar]
      rfl
    · have hflight' : u.inFlightFrom b .readSide = false := by rw [State.inFlightFrom, hu]; exact hflight
      rw [hnow'] at hflags ⊢
      refine ⟨?_, fun hreport => ?_, fun hretrain => ?_⟩
      · cases hpolicy : (u.bonds.get b).cfg.epochPolicy with
        | report =>
          rw [compareEpoch_far_now hq hfar hflight', bondTakes_epochDrift_report (by simpa [Bond.drifted] using hpolicy)]
          simp [Bond.drifted]
        | retrain =>
          obtain ⟨v, hv, -, hfault⟩ := compareEpoch_far_retrain hq hfar hflight' hstate hpolicy
          obtain ⟨-, hdrifts, -⟩ := (takeFault_taken b .epochDrift none none none v).counters
          rw [hfault, hdrifts, hv]
          rfl
      · rw [compareEpoch_far_now hq hfar hflight', bondTakes_epochDrift_report (by simpa [Bond.drifted] using hreport)]
        simpa [Bond.drifted] using ⟨hstate, hq⟩
      · obtain ⟨v, hv, hvnow, hfault⟩ := compareEpoch_far_retrain hq hfar hflight' hstate hretrain
        have htaken := takeFault_taken b .epochDrift none none none v
        rw [hfault] at hflags ⊢
        refine ⟨hflags _ htaken.flag, ?_, fun hnone => ?_⟩
        · rw [(takeFault_leaves b .epochDrift none none none v).state]
          split <;> [exact nofun; split <;> exact nofun]
        · rw [(htaken.first (by rw [hv]; exact hnone)).1, hv, hvnow]
          exact congrArg (fun st => some (⟨.epochDrift, st, none, none, none, u.timestamp⟩ : FaultRec)) hstate

end Sys2Proof.Machine

/-! A roll call that passes (R82, R83, R87). -/

namespace Sys2Proof.Machine

/-! ## Who announces an index -/

theorem State.mem_announcers {s : State} {b : BondId} {i : Index} {n : Lane} :
    n ∈ s.announcers b i ↔ (s.bonds.get b).cfg.isMember n = true ∧ (s.rolls.get n).entry.record.logicalIndex.toNat = i.val := by
  simp [State.announcers]

/-- The members announce different logical indices (R82). -/
def State.IndicesDiffer (s : State) (b : BondId) : Prop :=
  ∀ m m', (s.bonds.get b).cfg.isMember m = true → (s.bonds.get b).cfg.isMember m' = true →
    (s.rolls.get m).entry.record.logicalIndex = (s.rolls.get m').entry.record.logicalIndex → m = m'

/-- Of members that announce different indices, no two announce one. -/
theorem State.announcers_unique {s : State} {b : BondId} (h : s.IndicesDiffer b) {i : Index} {n : Lane} {rest : List Lane}
    (hlist : s.announcers b i = n :: rest) : rest = [] := by
  cases rest with
  | nil => rfl
  | cons m tail =>
    have hn := State.mem_announcers.mp (hlist ▸ List.mem_cons_self .. : n ∈ s.announcers b i)
    have hm := State.mem_announcers.mp (hlist ▸ List.mem_cons_of_mem _ (List.mem_cons_self ..) : m ∈ s.announcers b i)
    have heq : n = m := h n m hn.1 hm.1 (BitVec.eq_of_toNat_eq (hn.2.trans hm.2.symm))
    have hsorted : (s.announcers b i).Pairwise (· < ·) := (memberList_sorted _).filter _
    rw [hlist] at hsorted
    exact absurd (List.rel_of_pairwise_cons hsorted (List.mem_cons_self ..)) (by rw [heq]; exact lt_irrefl m)

theorem State.duplicateIndex_none {s : State} {b : BondId} (h : s.IndicesDiffer b) : s.duplicateIndex b = none := by
  refine List.findSome?_eq_none_iff.mpr fun i _ => ?_
  split
  next n second rest hlist => exact absurd (State.announcers_unique h hlist) nofun
  next => rfl

theorem Profile.firstDifference_self (p : Profile) : p.firstDifference p = none := by
  simp [Profile.firstDifference]

theorem State.announceMismatch_none {s : State} {b : BondId} {p : Profile}
    (h : ∀ m, (s.bonds.get b).cfg.isMember m = true → (s.rolls.get m).entry.record.common = p) :
    s.announceMismatch b p = none := by
  refine List.findSome?_eq_none_iff.mpr fun n hn => ?_
  dsimp only
  rw [h n (BondConfig.mem_memberList.mp hn), Profile.firstDifference_self]
  rfl

/-- The four conditions of R82 and a usable profile: the roll call passes. -/
theorem State.judgeRollCall_pass {s : State} {b : BondId} {p : Profile}
    (hcommon : ∀ m, (s.bonds.get b).cfg.isMember m = true → (s.rolls.get m).entry.record.common = p)
    (hlanes : p.shape.lanes = (s.bonds.get b).cfg.memberList.length) (hdiffer : s.IndicesDiffer b)
    (hexact : (s.bonds.get b).cfg.matchMode = .exact → (s.bonds.get b).cfg.firstMismatch p = none)
    (husable : p.shape.usable = true) : s.judgeRollCall b p = .pass p := by
  have hmatch : (if (s.bonds.get b).cfg.matchMode = .exact then (s.bonds.get b).cfg.firstMismatch p else none) = none := by
    split
    next h => exact hexact h
    next => rfl
  simp [State.judgeRollCall, State.announceMismatch_none hcommon, hlanes, State.duplicateIndex_none hdiffer, hmatch, husable]

/-! ## The lane order map -/

/-- The member that announces an index below the lane count is the lane of it (R83). -/
theorem State.rollMap_announced {s : State} {b : BondId} {l : Nat} (hdiffer : s.IndicesDiffer b) {n : Lane} {i : Index}
    (hn : (s.bonds.get b).cfg.isMember n = true) (hi : (s.rolls.get n).entry.record.logicalIndex.toNat = i.val) (hl : i.val < l) :
    (s.rollMap b l).get i = some n := by
  have hmem : n ∈ s.announcers b i := State.mem_announcers.mpr ⟨hn, hi⟩
  simp only [State.rollMap, Eight.get_ofFn, if_pos hl]
  cases hlist : s.announcers b i with
  | nil => rw [hlist] at hmem; contradiction
  | cons m rest =>
    rw [hlist, State.announcers_unique hdiffer hlist, List.mem_singleton] at hmem
    rw [hmem]
    rfl

/-- The lanes of the map are members. -/
theorem State.rollMap_isMember {s : State} {b : BondId} {l : Nat} {n : Lane} {i : Index}
    (h : (s.rollMap b l).get i = some n) : (s.bonds.get b).cfg.isMember n = true := by
  simp only [State.rollMap, Eight.get_ofFn] at h
  split at h
  · exact (State.mem_announcers.mp (List.mem_of_mem_head? h)).1
  · contradiction

/-! ## Entry to ALIGNING -/

/-- The bond as it enters ALIGNING with a profile and a lane order map (R83, R87, R108). -/
def Bond.enteredAligning (bd : Bond) (p : Profile) (m : Eight (Option Lane)) : Bond :=
  { bd with
    state := .aligning, profile := some p, map := some m, callTimer := .stopped
    alignTimer := .ofMs bd.cfg.alignTimeout
    inFlight := bd.inFlight.filter (Notice.actsInCalling bd.cfg)
    rel := { bd.rel.toIdle with state := .markWait } }

theorem enterAligning_eq (b : BondId) (p : Profile) (s : State) :
    enterAligning b p s = { s with
      bonds := s.bonds.set b ((s.bonds.get b).enteredAligning p (s.rollMap b p.shape.lanes))
      bufs := s.bufs.mapIdx fun n bf =>
        if ((s.bonds.get b).enteredAligning p (s.rollMap b p.shape.lanes)).indexOf n = none then bf
        else { bf with side := .watching, sweepCount := 0 } } := by
  simp only [enterAligning, State.modBond, Four.get_set]
  rfl

theorem Bond.indexOf_none {bd : Bond} {n : Lane} (h : ∀ i, bd.laneOf i ≠ some n) : bd.indexOf n = none :=
  List.find?_eq_none.mpr fun i _ => by simpa using h i

theorem Bond.indexOf_ne_none {bd : Bond} {n : Lane} {i : Index} (h : bd.laneOf i = some n) : bd.indexOf n ≠ none := by
  intro hnone
  have hi : ∀ j : Index, j ∈ allIndices := by decide
  exact List.find?_eq_none.mp hnone i (hi i) (by simp [h])

/-- Settles O41: the judgement is `State.judgeRollCall_pass`, the map that of `State.rollMap_announced`. -/
theorem rollCallThatPassesEntersAligning : Obligations.RollCallThatPassesEntersAligning := by
  intro b n p s hhead hcommon hlanes hbelow hdiffer hexact husable
  have hn : (s.bonds.get b).cfg.isMember n = true := BondConfig.mem_memberList.mp (List.mem_of_mem_head? hhead)
  have heval : evaluateRollCall b s = enterAligning b p s := by
    simp only [evaluateRollCall, hhead, hcommon n hn, State.judgeRollCall_pass hcommon hlanes hdiffer hexact husable]
  rw [enterAligning_eq] at heval
  refine ⟨_, heval, ?_⟩
  simp only [Four.get_set, if_pos, Eight.get_mapIdx]
  refine ⟨trivial, rfl, rfl, rfl, rfl, rfl, rfl, rfl, rfl, fun m hm => ?_, fun m hm => ?_⟩
  · have hlt := hbelow m hm
    have hval : (Fin.ofNat 8 (s.rolls.get m).entry.record.logicalIndex.toNat).val
        = (s.rolls.get m).entry.record.logicalIndex.toNat :=
      Nat.mod_eq_of_lt (Nat.lt_of_lt_of_le hlt p.shape.lanes_le)
    have hlane : ((s.bonds.get b).enteredAligning p (s.rollMap b p.shape.lanes)).laneOf
        (Fin.ofNat 8 (s.rolls.get m).entry.record.logicalIndex.toNat) = some m :=
      State.rollMap_announced hdiffer hm hval.symm (by rw [hval]; exact hlt)
    refine ⟨hlane, ?_⟩
    rw [if_neg (Bond.indexOf_ne_none hlane)]
  · rw [if_pos (Bond.indexOf_none fun i hi => ?_)]
    exact Bool.eq_false_iff.mp hm (State.rollMap_isMember hi)

end Sys2Proof.Machine

/-! What a lane's loss brings: its own fields, its notices, and what they leave (R26, R28, R30, R33, R35, R50, R177). -/

namespace Sys2Proof.Machine

/-! ## What the notices of a lane leave -/

/-- What the notices of a lane's change leave of the receivers, the port, the time and the flags. No lane begins to listen,
and none opens a record. -/
structure NoticeFrame (s t : State) : Prop where
  lanes : t.lanes = s.lanes
  port : t.port = s.port
  time : State.SameTime s t
  lanePending : t.irq.lanePending = s.irq.lanePending
  keepsGlobal : ∀ f, s.globalFlag f = true → t.globalFlag f = true
  listening : ∀ m, (s.rolls.get m).listening = false → (t.rolls.get m).listening = false
  openRec : ∀ m, (s.rolls.get m).openRec = none → (t.rolls.get m).openRec = none

namespace NoticeFrame

theorem refl (s : State) : NoticeFrame s s := ⟨rfl, rfl, ⟨rfl, rfl, rfl, rfl, rfl⟩, rfl, fun _ => id, fun _ => id, fun _ => id⟩

theorem trans {s t u : State} (h : NoticeFrame s t) (k : NoticeFrame t u) : NoticeFrame s u where
  lanes := k.lanes.trans h.lanes
  port := k.port.trans h.port
  time := h.time.trans k.time
  lanePending := k.lanePending.trans h.lanePending
  keepsGlobal f hf := k.keepsGlobal f (h.keepsGlobal f hf)
  listening m hm := k.listening m (h.listening m hm)
  openRec m hm := k.openRec m (h.openRec m hm)

theorem of_lanesStay {s t : State} (h : LanesStay s t) : NoticeFrame s t where
  lanes := h.lanes
  port := h.port
  time := h.time
  lanePending := h.lanePending
  keepsGlobal f hf := by
    unfold State.globalFlag at *
    rw [h.globalPending]
    exact hf
  listening m hm := by rw [h.listening]; exact hm
  openRec m hm := by
    rcases h.rolls m with heq | heq <;> rw [heq] <;> exact hm

theorem of_snapOnly {s t : State} (h : SnapOnly s t) : NoticeFrame s t where
  lanes := by rw [h.rest]
  port := by rw [h.rest]
  time := by rw [h.rest]; exact ⟨rfl, rfl, rfl, rfl, rfl⟩
  lanePending := by rw [h.rest]
  keepsGlobal := h.keepsFlags
  listening m hm := by rw [h.rest]; exact hm
  openRec m hm := by rw [h.rest]; exact hm

theorem lockLost (n : Lane) (s : State) : NoticeFrame s (s.modRoll n RollCall.lockLost) where
  lanes := rfl
  port := rfl
  time := ⟨rfl, rfl, rfl, rfl, rfl⟩
  lanePending := rfl
  keepsGlobal _ := id
  listening m hm := by
    rw [State.modRoll_get]
    split
    · rfl
    · exact hm
  openRec m hm := by
    rw [State.modRoll_get]
    split
    · rfl
    · exact hm

end NoticeFrame

theorem noticeLockLost_frame (n : Lane) (cause : LossCause) (late lateEntry : Bool) (s : State) :
    NoticeFrame (s.modRoll n RollCall.lockLost) (noticeLockLost n cause late lateEntry s) :=
  .of_lanesStay ((entryNotice_lanesStay n _ lateEntry _).trans (tellOwner_lanesStay n _ late _))

theorem lossNotices_frame (n : Lane) (was : LaneMode) (cause : LossCause) (late lateEntry : Bool) (s : State) :
    NoticeFrame s (lossNotices n was cause late lateEntry s) := by
  refine NoticeFrame.trans ?_ (.of_snapOnly (snapLaneDown_snapOnly n _))
  split
  · exact (NoticeFrame.lockLost n s).trans (noticeLockLost_frame n cause late lateEntry s)
  · exact .refl s

/-- The roll-call unit of a lane that has lost its lock listens no longer, and has no record open (R40, R42). -/
theorem lossNotices_quiet (n : Lane) (cause : LossCause) (late lateEntry : Bool) (s : State) :
    ((lossNotices n .locked cause late lateEntry s).rolls.get n).listening = false
      ∧ ((lossNotices n .locked cause late lateEntry s).rolls.get n).openRec = none := by
  have hframe := (noticeLockLost_frame n cause late lateEntry s).trans (.of_snapOnly (snapLaneDown_snapOnly n _))
  exact ⟨hframe.listening n (by simp [RollCall.lockLost]), hframe.openRec n (by simp [RollCall.lockLost])⟩

theorem lossNotices_notLocked {n : Lane} {was : LaneMode} (cause : LossCause) (late lateEntry : Bool) (s : State)
    (h : was ≠ .locked) : lossNotices n was cause late lateEntry s = snapLaneDown n s := by
  simp [lossNotices, h]

/-! ## The snapshot unit and a lane that goes down -/

theorem snapLaneDown_busy {n : Lane} {s : State} (hbusy : s.snap.busy = true) (hn : s.snap.lane = some n) :
    snapLaneDown n s = abortSnapshot .laneDown s := if_pos ⟨hbusy, hn⟩

/-- Of a lane that goes down, the lane's notices reach the snapshot unit last (R30, R177). -/
theorem lossNotices_snap (n : Lane) (was : LaneMode) (cause : LossCause) (late lateEntry : Bool) (s : State) :
    ∃ u, u.snap = s.snap ∧ lossNotices n was cause late lateEntry s = snapLaneDown n u := by
  refine ⟨_, ?_, rfl⟩
  split
  · exact ((entryNotice_lanesStay n _ lateEntry _).trans (tellOwner_lanesStay n _ late _)).snap
  · rfl

/-- A request in progress on a lane that goes down is aborted (R177). -/
theorem lossNotices_aborts {n : Lane} {s : State} (was : LaneMode) (cause : LossCause) (late lateEntry : Bool)
    (hbusy : s.snap.busy = true) (hn : s.snap.lane = some n) :
    (lossNotices n was cause late lateEntry s).snap = s.snap.abortWith .laneDown
      ∧ (lossNotices n was cause late lateEntry s).globalFlag .snapshotEnd = true := by
  obtain ⟨u, hsnap, hu⟩ := lossNotices_snap n was cause late lateEntry s
  rw [hu, snapLaneDown_busy (by rw [hsnap]; exact hbusy) (by rw [hsnap]; exact hn), ← hsnap]
  exact ⟨rfl, by simp [abortSnapshot, globalFlag_raiseGlobal]⟩

theorem lossNotices_snap_of_not_busy {n : Lane} {s : State} (was : LaneMode) (cause : LossCause) (late lateEntry : Bool)
    (h : s.snap.busy = true → s.snap.lane ≠ some n) : (lossNotices n was cause late lateEntry s).snap = s.snap := by
  obtain ⟨u, hsnap, hu⟩ := lossNotices_snap n was cause late lateEntry s
  rw [hu, snapLaneDown_of_not_busy (by rw [hsnap]; exact h), hsnap]

/-! ## Notices that stay on their way -/

/-- Notices about a lane join what is on its way to its owning bond. -/
def State.sendOwner (s : State) (n : Lane) (xs : List Notice) : State :=
  { s with bonds := s.bonds.mapIdx fun b bd => if s.owner n = some b then bd.send xs else bd }

theorem State.sendOwner_get (s : State) (n : Lane) (xs : List Notice) (b : BondId) :
    (s.sendOwner n xs).bonds.get b
      = if s.owner n = some b then { s.bonds.get b with inFlight := (s.bonds.get b).inFlight ++ xs } else s.bonds.get b := by
  simp only [State.sendOwner, Four.get_mapIdx]
  rfl

theorem State.sendOwner_owner (s : State) (n m : Lane) (xs : List Notice) : (s.sendOwner n xs).owner m = s.owner m := by
  have hclaims : ∀ b, ((s.sendOwner n xs).bonds.get b).claims m = (s.bonds.get b).claims m := fun b => by
    rw [State.sendOwner_get]
    split <;> rfl
  simp only [State.owner, hclaims]

theorem State.sendOwner_nil (s : State) (n : Lane) : s.sendOwner n [] = s := by
  have hbonds : (s.bonds.mapIdx fun b bd => if s.owner n = some b then bd.send [] else bd) = s.bonds :=
    Four.ext_get fun b => by simp [Bond.send]
  rw [State.sendOwner, hbonds]

theorem State.sendOwner_sendOwner (s : State) (n : Lane) (xs ys : List Notice) :
    (s.sendOwner n xs).sendOwner n ys = s.sendOwner n (xs ++ ys) := by
  have hbonds : ((s.sendOwner n xs).sendOwner n ys).bonds = (s.sendOwner n (xs ++ ys)).bonds :=
    Four.ext_get fun b => by
      simp only [State.sendOwner_get, State.sendOwner_owner]
      split <;> simp
  exact congrArg (fun v => { s with bonds := v }) hbonds

/-- A notice that is sent late joins what is on its way to the owning bond. -/
theorem State.tellOwner_late (s : State) (n : Lane) (x : Notice) : s.tellOwner n x true = s.sendOwner n [x] := by
  have hbonds : (s.tellOwner n x true).bonds = (s.sendOwner n [x]).bonds := Four.ext_get fun b => by
    rw [State.sendOwner_get]
    cases howner : s.owner n with
    | none => simp [State.tellOwner, State.toOwner, howner]
    | some c =>
      simp only [State.tellOwner, State.toOwner, howner, tell_late]
      by_cases hb : b = c
      · simp [State.withInFlight, hb]
      · simp [State.withInFlight, hb, Ne.symm hb]
  have hrest : s.tellOwner n x true = { s with bonds := (s.tellOwner n x true).bonds } := by
    unfold State.tellOwner State.toOwner
    split <;> rfl
  rw [hrest, hbonds]
  rfl

/-- The STALE notice of a lost entry: one is sent where the status changes (R50, R53). -/
def Entry.staleNotice (e : Entry) (n : Lane) : List Notice :=
  if e.status = .seen ∨ e.status = .confirmed then [.entryStatus n .stale] else []

theorem Entry.lose_changed {e : Entry} (h : e.status = .seen ∨ e.status = .confirmed) :
    e.lose = { e with status := .stale, repeats := 0 } := by
  rcases h with h | h <;> simp [Entry.lose, h]

theorem Entry.lose_same {e : Entry} (h : ¬ (e.status = .seen ∨ e.status = .confirmed)) : e.lose = e := by
  unfold Entry.lose
  cases hs : e.status <;> simp_all

theorem rollLockLost_changed {n : Lane} {s : State} (late : Bool)
    (h : (s.rolls.get n).entry.status = .seen ∨ (s.rolls.get n).entry.status = .confirmed) :
    rollLockLost n late s = (s.modRoll n RollCall.lockLost).tellOwner n (.entryStatus n .stale) late := by
  have hne : EntryStatus.stale ≠ (s.rolls.get n).entry.status := by rcases h with h | h <;> rw [h] <;> exact nofun
  simp [rollLockLost, State.entryNotice, RollCall.lockLost, Entry.lose_changed h, hne]

theorem rollLockLost_same {n : Lane} {s : State} (late : Bool)
    (h : ¬ ((s.rolls.get n).entry.status = .seen ∨ (s.rolls.get n).entry.status = .confirmed)) :
    rollLockLost n late s = s.modRoll n RollCall.lockLost :=
  entryNotice_same late (by simp [RollCall.lockLost, Entry.lose_same h])

/-- The roll-call unit takes a loss, and its STALE notice stays on its way. -/
theorem rollLockLost_late (n : Lane) (s : State) :
    rollLockLost n true s = (s.modRoll n RollCall.lockLost).sendOwner n ((s.rolls.get n).entry.staleNotice n) := by
  unfold Entry.staleNotice
  split
  next h => rw [rollLockLost_changed true h, State.tellOwner_late]
  next h => rw [rollLockLost_same true h, State.sendOwner_nil]

/-- A loss whose two notices stay on their way. -/
theorem noticeLockLost_late (n : Lane) (cause : LossCause) (s : State) :
    noticeLockLost n cause true true s = (s.modRoll n RollCall.lockLost).sendOwner n
      ((s.rolls.get n).entry.staleNotice n ++ [.lockLost n cause]) := by
  rw [noticeLockLost, rollLockLost_late, State.tellOwner_late, State.sendOwner_sendOwner]

/-- The bonds of a loss whose two notices stay on their way (R30, R53, R75). -/
theorem lossNotices_late (n : Lane) (cause : LossCause) (s : State) :
    (lossNotices n .locked cause true true s).irq.bondPending = s.irq.bondPending
      ∧ ∀ b, (lossNotices n .locked cause true true s).bonds.get b = if s.owner n = some b then
          { s.bonds.get b with inFlight := (s.bonds.get b).inFlight ++ (s.rolls.get n).entry.staleNotice n
              ++ [.lockLost n cause] }
        else s.bonds.get b := by
  have hbonds : ∀ u : State, (snapLaneDown n u).bonds = u.bonds ∧ (snapLaneDown n u).irq.bondPending = u.irq.bondPending :=
    fun u => by rw [(snapLaneDown_snapOnly n u).rest]; exact ⟨rfl, rfl⟩
  have hloss : lossNotices n .locked cause true true s = snapLaneDown n ((s.modRoll n RollCall.lockLost).sendOwner n
      ((s.rolls.get n).entry.staleNotice n ++ [.lockLost n cause])) := by
    rw [lossNotices, if_pos rfl, noticeLockLost_late]
  refine ⟨by rw [hloss, (hbonds _).2]; rfl, fun b => ?_⟩
  rw [hloss, (hbonds _).1, State.sendOwner_get, List.append_assoc]
  rfl

/-! ## A lane's own fields -/

theorem LaneRx.countLoss_fields (l : LaneRx) :
    l.countLoss = { l with lockLosses := if l.mode = .locked then satInc l.lockLosses else l.lockLosses } := by
  unfold LaneRx.countLoss
  split <;> rfl

/-- A lane that goes to ACQUIRING (R18, R26, R28). -/
theorem LaneRx.toAcquiring_eq (l : LaneRx) (cause : LossCause) (present : Bool) :
    l.toAcquiring cause present = { l with
      mode := .acquiring, lockRun := 0, invRun := 0, strikes := 0, relief := 0, lastLoss := some cause
      lockLosses := if l.mode = .locked then satInc l.lockLosses else l.lockLosses
      acqTimer := if present then .start l.acqLimit else .held 0 } := by
  rw [LaneRx.toAcquiring, LaneRx.countLoss_fields]
  rfl

theorem raiseLockLost_locked (n : Lane) (s : State) : raiseLockLost n .locked s = s.raiseLane n .lockLost := rfl

theorem raiseLockLost_notLocked {n : Lane} {was : LaneMode} {s : State} (h : was ≠ .locked) : raiseLockLost n was s = s :=
  if_neg h

/-- LOCK_LOST is one pending flag. -/
theorem raiseLockLost_frame (n : Lane) (was : LaneMode) (s : State) :
    ∃ v, raiseLockLost n was s = { s with irq := { s.irq with lanePending := v } } := by
  unfold raiseLockLost
  split
  · exact ⟨_, rfl⟩
  · exact ⟨s.irq.lanePending, rfl⟩

/-! ## FREQUENCY_LOSS -/

/-- The lane as a frequency loss leaves it, before its notices. -/
def State.frequencyLost (s : State) (n : Lane) : State :=
  raiseLockLost n (s.lanes.get n).mode (s.modLane n fun l => l.toAcquiring .frequency s.refmon.present)

theorem frequencyLoss_eq {n : Lane} {s : State} (late lateEntry : Bool) (h : (s.lanes.get n).mode.classifies = true) :
    frequencyLoss n late lateEntry s
      = lossNotices n (s.lanes.get n).mode .frequency late lateEntry (s.frequencyLost n) := if_pos h

/-- A frequency loss moves the one receiver and a pending flag of it. -/
theorem State.frequencyLost_frame (s : State) (n : Lane) :
    ∃ v, s.frequencyLost n = { s with
      lanes := s.lanes.set n ((s.lanes.get n).toAcquiring .frequency s.refmon.present)
      irq := { s.irq with lanePending := v } } := raiseLockLost_frame n _ _

/-- Settles O20: the lane's fields by `LaneRx.toAcquiring_eq`, and what its notices leave by `NoticeFrame`. -/
theorem frequencyLossTakesALaneToAcquiring : Obligations.FrequencyLossTakesALaneToAcquiring := by
  intro n late lateEntry s
  refine ⟨fun h => congrArg Host.Outcome.next (if_neg (by simp [h])), fun h => ?_⟩
  refine ⟨_, congrArg Host.Outcome.next (frequencyLoss_eq late lateEntry h), ?_⟩
  have hframe := lossNotices_frame n (s.lanes.get n).mode .frequency late lateEntry (s.frequencyLost n)
  obtain ⟨v, hlost⟩ := s.frequencyLost_frame n
  have hlane : (s.frequencyLost n).lanes.get n = (s.lanes.get n).toAcquiring .frequency s.refmon.present := by
    rw [hlost]; simp
  rw [hframe.lanes, hlane, LaneRx.toAcquiring_eq]
  refine ⟨rfl, rfl, rfl, rfl, rfl, fun hpresent => by simp [hpresent, Timer.start, LaneRx.acqLimit, Config.acqTimeoutStep],
    fun m hm => ?_, ?_, ?_, fun hlocked => ?_, fun hseeking => ?_, fun hbusy hn => ?_⟩
  · rw [hframe.lanes, hlost]
    simp [hm]
  · refine State.SameTime.trans ?_ hframe.time
    rw [hlost]
    exact ⟨rfl, rfl, rfl, rfl, rfl⟩
  · rw [hframe.port, hlost]
  · have hquiet := lossNotices_quiet n .frequency late lateEntry (s.frequencyLost n)
    rw [hlocked] at hframe ⊢
    refine ⟨rfl, ?_, hquiet.1, hquiet.2, fun hlate hlateEntry => ?_⟩
    · unfold State.laneFlag
      rw [hframe.lanePending, State.frequencyLost, hlocked, raiseLockLost_locked]
      exact (laneFlag_raiseLane _ n n .lockLost .lockLost).trans (by simp)
    · obtain ⟨hpending, hbonds⟩ := lossNotices_late n .frequency (s.frequencyLost n)
      rw [hlate, hlateEntry, hpending]
      refine ⟨by rw [hlost], fun b => (hbonds b).trans ?_⟩
      rw [hlost]
      rfl
  · rw [hseeking, lossNotices_notLocked (was := .seeking) _ _ _ _ (by decide), (snapLaneDown_snapOnly n _).rest, hlost]
    exact ⟨rfl, rfl, rfl⟩
  · have hsnap : (s.frequencyLost n).snap = s.snap := by rw [hlost]
    obtain ⟨habort, hflag⟩ := lossNotices_aborts (s.lanes.get n).mode .frequency late lateEntry
      (by rw [hsnap]; exact hbusy) (by rw [hsnap]; exact hn)
    rw [habort, hsnap]
    exact ⟨rfl, rfl, rfl, hflag⟩

/-! ## REFERENCE_GAP -/

/-- The state as the monitor declares ABSENT, before any lane's notice: every lane has lost the reference (R33, R35). -/
def State.referenceLost (s : State) : State :=
  raiseLostLanes s.lanes (({ s with
    refmon := { s.refmon with present := false }
    lanes := s.lanes.mapIdx fun _ l => l.referenceLost } : State).raiseGlobal .refLost)

/-- The notices of a list of lanes at a declaration of ABSENT, each lane having been as `was` says. -/
def lossesOf (was : Eight LaneRx) (late lateEntry : List Lane) (lanes : List Lane) (s : State) : State :=
  lanes.foldl (fun s n =>
    if (was.get n).mode.classifies then
      lossNotices n (was.get n).mode .reference (late.contains n) (lateEntry.contains n) s
    else s) s

theorem declareAbsent_eq (order late lateEntry : List Lane) (s : State) :
    declareAbsent order late lateEntry s = lossesOf s.lanes late lateEntry (laneOrder order) s.referenceLost := rfl

theorem lossesOf_frame (was : Eight LaneRx) (late lateEntry lanes : List Lane) (s : State) :
    NoticeFrame s (lossesOf was late lateEntry lanes s) := by
  refine List.foldlRecOn (motive := fun t => NoticeFrame s t) lanes _ (.refl s) fun t ht n _ => ?_
  split
  · exact ht.trans (lossNotices_frame n _ .reference _ _ t)
  · exact ht

/-- A lane among those that was LOCKED listens no longer, whatever the lanes after it bring. -/
theorem lossesOf_quiet {was : Eight LaneRx} {lanes : List Lane} {n : Lane} (late lateEntry : List Lane) (s : State)
    (hmem : n ∈ lanes) (hlocked : (was.get n).mode = .locked) :
    ((lossesOf was late lateEntry lanes s).rolls.get n).listening = false := by
  obtain ⟨before, after, rfl⟩ := List.append_of_mem hmem
  have hclass : LaneMode.classifies .locked = true := rfl
  simp only [lossesOf, List.foldl_append, List.foldl_cons, hlocked, hclass, if_true]
  exact (lossesOf_frame was late lateEntry after _).listening n (lossNotices_quiet n .reference _ _ _).1

theorem mem_laneOrder (order : List Lane) (n : Lane) : n ∈ laneOrder order := by
  have hall : ∀ m : Lane, m ∈ allLanes := by decide
  by_cases h : n ∈ order <;> simp [laneOrder, h, hall]

theorem State.referenceLost_lockLost {s : State} {n : Lane} (h : (s.lanes.get n).mode = .locked) :
    s.referenceLost.laneFlag n .lockLost = true := by
  simp [State.referenceLost, raiseLostLanes, State.laneFlag, h, setFlag, LaneFlag.pos]

theorem referenceGap_short {order late lateEntry : List Lane} {s : State} (h : s.refmon.gap < 4) :
    referenceGap order late lateEntry s = s := if_pos h

theorem referenceGap_long {order late lateEntry : List Lane} {s : State} (h : 4 ≤ s.refmon.gap) :
    referenceGap order late lateEntry s = if s.refmon.present then
      declareAbsent order late lateEntry { s with refmon := { s.refmon with edges := 0 } }
    else { s with refmon := { s.refmon with edges := 0 } } := if_neg (Nat.not_lt.mpr h)

/-- Settles O13: the lanes are those of `State.referenceLost`, which no notice moves. -/
theorem referenceGapDeclaresAbsent : Obligations.ReferenceGapDeclaresAbsent := by
  intro order late lateEntry s
  refine ⟨fun h => congrArg Host.Outcome.next (referenceGap_short h), fun h habsent => ?_, fun h hpresent => ?_⟩
  · refine congrArg Host.Outcome.next ((referenceGap_long h).trans ?_)
    simp [habsent]
  have hgap : referenceGap order late lateEntry s
      = lossesOf s.lanes late lateEntry (laneOrder order) { s with refmon := { s.refmon with edges := 0 } }.referenceLost :=
    (referenceGap_long h).trans ((if_pos hpresent).trans (declareAbsent_eq order late lateEntry _))
  refine ⟨_, congrArg Host.Outcome.next hgap, ?_⟩
  have hframe := lossesOf_frame s.lanes late lateEntry (laneOrder order)
    { s with refmon := { s.refmon with edges := 0 } }.referenceLost
  refine ⟨hframe.time.refmon, hframe.keepsGlobal _ ?_, hframe.time.timestamp, hframe.port, hframe.time.pending, fun n => ?_⟩
  · exact (globalFlag_raiseGlobal _ .refLost .refLost).trans (by simp)
  have hlane : { s with refmon := { s.refmon with edges := 0 } }.referenceLost.lanes.get n
      = (s.lanes.get n).referenceLost := by
    simp [State.referenceLost, raiseLostLanes]
  rw [hframe.lanes, hlane]
  refine ⟨fun hoff => ?_, fun hacquiring => ?_, fun hclass => ?_, fun hlocked => ?_⟩
  · simp [LaneRx.referenceLost, hoff]
  · simp [LaneRx.referenceLost, hacquiring]
  · have hlost : (s.lanes.get n).referenceLost = (s.lanes.get n).toAcquiring .reference false := by
      unfold LaneRx.referenceLost
      cases hmode : (s.lanes.get n).mode <;> simp [hmode, LaneMode.classifies] at hclass ⊢
    rw [hlost, LaneRx.toAcquiring_eq]
    exact ⟨rfl, rfl, rfl, rfl, rfl, rfl, rfl⟩
  · refine ⟨?_, ?_, lossesOf_quiet late lateEntry _ (mem_laneOrder order n) hlocked⟩
    · simp [LaneRx.referenceLost, hlocked, LaneRx.toAcquiring_eq]
    · unfold State.laneFlag
      rw [hframe.lanePending]
      exact State.referenceLost_lockLost hlocked

end Sys2Proof.Machine

/-! A lane fault of a member of a RUNNING bond: a mend, or the fault LANE_LOST (R89, R93, R122 to R125). -/

namespace Sys2Proof.Machine

/-! ## How the loss reaches the bond -/

/-- What of a loss stays on its way to a bond that takes the lock-lost notice itself at once. -/
def Entry.lateStale (e : Entry) (n : Lane) (lateEntry : Bool) : List Notice :=
  if lateEntry = true ∧ (e.status = .seen ∨ e.status = .confirmed) then [.entryStatus n .stale] else []

/-- The roll-call unit takes a loss: its STALE notice joins what is on its way, or the bond has taken it, to no effect. -/
theorem rollLockLost_noEffect {n : Lane} {b : BondId} {s : State} {lateEntry : Bool} (howner : s.owner n = some b)
    (hflight : lateEntry = true ∨ s.inFlightFrom b .rollCall = false) :
    rollLockLost n lateEntry s
      = (s.modRoll n RollCall.lockLost).sendOwner n ((s.rolls.get n).entry.lateStale n lateEntry) := by
  cases lateEntry with
  | true =>
    rw [rollLockLost_late]
    simp [Entry.lateStale, Entry.staleNotice]
  | false =>
    have hnone : (s.modRoll n RollCall.lockLost).inFlightFrom b .rollCall = false := hflight.resolve_left nofun
    have howner' : (s.modRoll n RollCall.lockLost).owner n = some b := howner
    have hstale : (s.rolls.get n).entry.lateStale n false = [] := by simp [Entry.lateStale]
    rw [hstale, State.sendOwner_nil]
    by_cases h : (s.rolls.get n).entry.status = .seen ∨ (s.rolls.get n).entry.status = .confirmed
    · rw [rollLockLost_changed false h, State.tellOwner, State.toOwner, howner']
      exact tell_taken (x := .entryStatus n .stale) hnone
    · exact rollLockLost_same false h

/-- A lane's STALE notice is none of its receiver's. -/
theorem Entry.lateStale_sender (e : Entry) (n m : Lane) (lateEntry : Bool) :
    (e.lateStale n lateEntry).any (fun x => x.sender == .receiver m) = false := by
  unfold Entry.lateStale
  split <;> rfl

/-- The state as the bond takes the lock-lost notice of its member at once, with nothing earlier on its way. -/
def State.lossTold (s : State) (n : Lane) (lateEntry : Bool) : State :=
  (s.modRoll n RollCall.lockLost).sendOwner n ((s.rolls.get n).entry.lateStale n lateEntry)

theorem State.lossTold_owner {s : State} {n : Lane} {b : BondId} (lateEntry : Bool) (howner : s.owner n = some b) :
    (s.lossTold n lateEntry).bonds.get b = { s.bonds.get b with
      inFlight := (s.bonds.get b).inFlight ++ (s.rolls.get n).entry.lateStale n lateEntry } := by
  rw [State.lossTold, State.sendOwner_get]
  exact if_pos howner

theorem State.lossTold_otherBonds {s : State} {n : Lane} {b : BondId} (lateEntry : Bool) (howner : s.owner n = some b) :
    State.OtherBonds b s (s.lossTold n lateEntry) := by
  intro c hc
  rw [State.lossTold, State.sendOwner_get, if_neg]
  · rfl
  · intro hown
    exact hc (Option.some.inj (hown.symm.trans howner))

theorem noticeLockLost_now {n : Lane} {b : BondId} {s : State} {lateEntry : Bool} (cause : LossCause)
    (howner : s.owner n = some b) (hreceiver : s.inFlightFrom b (.receiver n) = false)
    (hflight : lateEntry = true ∨ s.inFlightFrom b .rollCall = false) :
    noticeLockLost n cause false lateEntry s = bondTakes b (.lockLost n cause) (s.lossTold n lateEntry) := by
  have howner' : (s.lossTold n lateEntry).owner n = some b := (State.sendOwner_owner _ n n _).trans howner
  rw [noticeLockLost, rollLockLost_noEffect howner hflight]
  change (s.lossTold n lateEntry).tellOwner n (.lockLost n cause) false = _
  rw [State.tellOwner, State.toOwner, howner']
  refine tell_taken ?_
  rw [State.inFlightFrom, State.lossTold_owner lateEntry howner, List.any_append]
  exact Bool.or_eq_false_iff.mpr ⟨hreceiver, Entry.lateStale_sender _ n n lateEntry⟩

theorem bondTakes_lockLost_running {b : BondId} {n : Lane} {s : State} (hstate : (s.bonds.get b).state = .running)
    (hn : (s.bonds.get b).cfg.isMember n = true) :
    bondTakes b (.lockLost n .frequency) s = runningLaneFault b n .frequency .laneLost s := by
  simp [bondTakes, bondTakesLockLost, hstate, hn]

/-- A frequency loss of a LOCKED member of a RUNNING bond that takes the notice at once. -/
theorem frequencyLoss_running {n : Lane} {b : BondId} {lateEntry : Bool} {s : State} (hlocked : (s.lanes.get n).mode = .locked)
    (howner : s.owner n = some b) (hstate : (s.bonds.get b).state = .running) (hn : (s.bonds.get b).cfg.isMember n = true)
    (hreceiver : s.inFlightFrom b (.receiver n) = false) (hflight : lateEntry = true ∨ s.inFlightFrom b .rollCall = false) :
    frequencyLoss n false lateEntry s
      = snapLaneDown n (runningLaneFault b n .frequency .laneLost ((s.frequencyLost n).lossTold n lateEntry)) := by
  have hclass : (s.lanes.get n).mode.classifies = true := by rw [hlocked]; rfl
  obtain ⟨v, hlost⟩ := s.frequencyLost_frame n
  have hbonds : (s.frequencyLost n).bonds = s.bonds := by rw [hlost]
  have howner' : (s.frequencyLost n).owner n = some b := by rw [State.owner, hbonds]; exact howner
  rw [frequencyLoss_eq false lateEntry hclass, hlocked, lossNotices, if_pos rfl,
    noticeLockLost_now .frequency howner' (by rw [State.inFlightFrom, hbonds]; exact hreceiver)
      (by rw [State.inFlightFrom, hbonds]; exact hflight),
    bondTakes_lockLost_running (by rw [State.lossTold_owner lateEntry howner', hbonds]; exact hstate)
      (by rw [State.lossTold_owner lateEntry howner', hbonds]; exact hn)]

/-! ## A mend that begins -/

theorem clearNotices_single (s : State) (j : Lane) : s.clearNotices (fun l => l == j)
    = if (s.rolls.get j).entry.status = .empty then [] else [.entryStatus j .empty] := by
  have hone : ∀ m : Lane, allLanes.filter (fun l => l == m) = [m] := by decide
  have hfilter : allLanes.filter (fun l => l == j && (s.rolls.get l).entry.status != .empty)
      = [j].filter fun l => (s.rolls.get l).entry.status != .empty := by
    rw [← hone j, List.filter_filter]
    exact List.filter_congr fun l _ => Bool.and_comm _ _
  rw [State.clearNotices, hfilter]
  by_cases h : (s.rolls.get j).entry.status = .empty <;> simp [h]

/-- The reference of a mend is the lowest index other than k, where there is one (R123). -/
theorem Bond.refIndex_lowest {bd : Bond} {i k : Index} (hcount : 2 ≤ bd.laneCount) (hik : i ≠ k)
    (hlow : ∀ j, j < i → j = k) : bd.refIndex k = i := by
  have hsmall : ∀ i k : Index, i ≠ k → (∀ j, j < i → j = k) → (if k = 0 then 1 else 0 : Index) = i := by decide
  rw [Bond.refIndex, if_neg (Nat.not_le.mpr hcount)]
  exact hsmall i k hik hlow

/-- The bond as its mend begins (R93, R125). -/
def Bond.mendStarted (bd : Bond) (m : MendRec) : Bond :=
  { bd with
    state := .mending, mend := some m, seat := none, settle := 0, mendTimer := .ofMs bd.cfg.mendTimeout
    ra := { bd.ra with standing := .spoiled } }

theorem startMend_eq (b : BondId) (n : Lane) (cause : TriggerCause) (s : State) :
    startMend b n cause s = { s with
      bonds := s.bonds.set b (((s.bonds.get b).mendStarted (s.newMend b n cause)).send
        (s.clearNotices fun l => l == (s.newMend b n cause).joining))
      bufs := (s.clearBufs fun l => l == n || l == (s.newMend b n cause).joining).bufs
      rolls := (s.clearEntries b fun l => l == (s.newMend b n cause).joining).rolls
      irq := (s.raiseBond b .mendStarted).irq } := by
  simp only [startMend, State.modBond, State.clearEntries, State.clearBufs, State.raiseBond, Four.set_set, Four.get_set,
    if_true]
  rfl

theorem State.newMend_fields {s : State} {b : BondId} {n : Lane} {k : Index} (cause : TriggerCause)
    (hindex : (s.bonds.get b).indexOf n = some k) :
    (s.newMend b n cause).k = k ∧ (s.newMend b n cause).reference
      = if (s.bonds.get b).laneCount ≤ 1 then none else (s.bonds.get b).laneOf ((s.bonds.get b).refIndex k) := by
  simp [State.newMend, hindex]

/-- REJOIN, where the bond has no spare to move to (R124). -/
theorem State.newMend_rejoin {s : State} {b : BondId} (n : Lane) (cause : TriggerCause) (h : s.moveTarget b = none) :
    (s.newMend b n cause).method = .rejoin ∧ (s.newMend b n cause).joining = n := by
  simp [State.newMend, h]

theorem State.newMend_move {s : State} {b : BondId} {sp : Lane} (n : Lane) (cause : TriggerCause)
    (h : s.moveTarget b = some sp) : (s.newMend b n cause).method = .move ∧ (s.newMend b n cause).joining = sp := by
  simp [State.newMend, h]

/-- The target of a MOVE is the spare, where it reads LOCKED and the profile allows it (R124). -/
theorem State.moveTarget_spare {s : State} {b : BondId} {sp : Lane} {p : Profile} (hspare : (s.bonds.get b).cfg.spare = some sp)
    (hp : (s.bonds.get b).profile = some p) :
    s.moveTarget b = if (s.lanes.get sp).mode = .locked ∧ p.spareCapable = true then some sp else none := by
  simp only [State.moveTarget, hspare, hp]

theorem State.moveTarget_noSpare {s : State} {b : BondId} (hspare : (s.bonds.get b).cfg.spare = none) :
    s.moveTarget b = none := by
  simp only [State.moveTarget, hspare]

/-! ## The obligation -/

theorem State.not_membersLocked {s : State} {b : BondId} {n : Lane} (hn : (s.bonds.get b).cfg.isMember n = true)
    (h : (s.lanes.get n).mode ≠ .locked) : s.membersLocked b = false := by
  refine Bool.eq_false_iff.mpr fun hall => h ?_
  simpa using List.all_eq_true.mp hall n (BondConfig.mem_memberList.mpr hn)

/-- The state in which a RUNNING bond takes the frequency loss of its member: what differs from the state before it. -/
structure LossReached (n : Lane) (b : BondId) (lateEntry : Bool) (s u : State) : Prop where
  bond : u.bonds.get b = { s.bonds.get b with
    inFlight := (s.bonds.get b).inFlight ++ (s.rolls.get n).entry.lateStale n lateEntry }
  otherBonds : State.OtherBonds b s u
  mode : (u.lanes.get n).mode = .acquiring
  otherLanes : State.OtherLanes n s u
  bufs : u.bufs = s.bufs
  roll : u.rolls.get n = (s.rolls.get n).lockLost
  otherRolls : ∀ l, l ≠ n → u.rolls.get l = s.rolls.get l
  time : State.SameTime s u
  port : u.port = s.port

theorem frequencyLost_reached {n : Lane} {b : BondId} {s : State} (lateEntry : Bool) (howner : s.owner n = some b) :
    LossReached n b lateEntry s ((s.frequencyLost n).lossTold n lateEntry) := by
  obtain ⟨v, hlost⟩ := s.frequencyLost_frame n
  have howner' : (s.frequencyLost n).owner n = some b := by
    have hbonds : (s.frequencyLost n).bonds = s.bonds := by rw [hlost]
    rw [State.owner, hbonds]
    exact howner
  have hbond := State.lossTold_owner lateEntry howner'
  have hother := State.lossTold_otherBonds lateEntry howner'
  rw [hlost] at hbond hother ⊢
  exact {
    bond := hbond
    otherBonds := hother
    mode := by simp [State.lossTold, State.sendOwner, LaneRx.toAcquiring_eq]
    otherLanes := fun m hm => by simp [State.lossTold, State.sendOwner, hm]
    bufs := rfl
    roll := by simp [State.lossTold, State.sendOwner]
    otherRolls := fun l hl => by simp [State.lossTold, State.sendOwner, hl]
    time := ⟨rfl, rfl, rfl, rfl, rfl⟩
    port := rfl }

theorem Entry.lose_empty (e : Entry) : e.lose.status = .empty ↔ e.status = .empty := by
  unfold Entry.lose
  split <;> simp [*]

/-- A loss empties no entry, and fills none (R50). -/
theorem LossReached.empty_iff {n : Lane} {b : BondId} {lateEntry : Bool} {s u : State} (h : LossReached n b lateEntry s u)
    (j : Lane) : (u.rolls.get j).entry.status = .empty ↔ (s.rolls.get j).entry.status = .empty := by
  by_cases hj : j = n
  · rw [hj, h.roll]
    exact Entry.lose_empty _
  · rw [h.otherRolls j hj]

/-- With mending off, the loss is the fault LANE_LOST of a member that is not LOCKED (R89, R95). -/
theorem lossReached_faults {n : Lane} {b : BondId} {k : Index} {lateEntry : Bool} {s u : State}
    (h : LossReached n b lateEntry s u)
    (hn : (s.bonds.get b).cfg.isMember n = true) (hindex : (s.bonds.get b).indexOf n = some k)
    (hmending : (s.bonds.get b).cfg.mending = false) :
    runningLaneFault b n .frequency .laneLost u = takeFault b .laneLost (some n) (some k) none u
    ∧ u.membersLocked b = false := by
  have hindex' : (u.bonds.get b).indexOf n = some k := by rw [h.bond]; exact hindex
  have hmending' : (u.bonds.get b).cfg.mending = false := by rw [h.bond]; exact hmending
  refine ⟨?_, State.not_membersLocked (n := n) (by rw [h.bond]; exact hn) (by rw [h.mode]; exact nofun)⟩
  simp [runningLaneFault, takeLaneFault, hindex', hmending']

/-- Settles O40: the loss reaches the bond in a state that `LossReached` gives, and the bond begins a mend (`startMend_eq`)
or takes the fault (`takeFault_taken`). -/
theorem laneFaultInRunningMendsOrFaults : Obligations.LaneFaultInRunningMendsOrFaults := by
  intro n b k lateEntry s hlocked howner hstate hn hindex hreceiver hflight
  have hexec : exec (.frequencyLoss n false lateEntry) s = .next (snapLaneDown n
      (runningLaneFault b n .frequency .laneLost ((s.frequencyLost n).lossTold n lateEntry))) :=
    congrArg Host.Outcome.next (frequencyLoss_running hlocked howner hstate hn hreceiver hflight)
  have hreached := frequencyLost_reached lateEntry howner
  generalize (s.frequencyLost n).lossTold n lateEntry = u at hexec hreached
  refine ⟨fun hmending => ?_, fun hmending => ?_⟩
  · have hmending' : (u.bonds.get b).cfg.mending = true := by rw [hreached.bond]; exact hmending
    rw [runningLaneFault, if_pos hmending', startMend_eq, (snapLaneDown_snapOnly n _).rest] at hexec
    obtain ⟨hk, href⟩ := State.newMend_fields (s := u) .frequency
      (show (u.bonds.get b).indexOf n = some k by rw [hreached.bond]; exact hindex)
    have hcause : (u.newMend b n .frequency).cause = .frequency ∧ (u.newMend b n .frequency).trigger = n
        ∧ (u.newMend b n .frequency).phase = .announce ∧ (u.newMend b n .frequency).outcome = .inProgress
        ∧ (u.newMend b n .frequency).offset = none := ⟨rfl, rfl, rfl, rfl, rfl⟩
    have htarget := fun sp p hspare hp => State.moveTarget_spare (s := u) (b := b) (sp := sp) (p := p)
      (by rw [hreached.bond]; exact hspare) (by rw [hreached.bond]; exact hp)
    have hrejoin := State.newMend_rejoin (s := u) (b := b) n .frequency
    have hmove := fun sp => State.newMend_move (s := u) (b := b) (sp := sp) n .frequency
    refine ⟨_, u.newMend b n .frequency, hexec, ?_⟩
    generalize u.newMend b n .frequency = m at *
    obtain ⟨hcause, htrigger, hphase, houtcome, hoffset⟩ := hcause
    rw [Four.get_set, if_pos rfl, hreached.bond, clearNotices_single, if_congr (hreached.empty_iff m.joining) rfl rfl]
    rw [hreached.bond] at href
    refine ⟨rfl, rfl, htrigger, hk, hcause, hphase, houtcome, hoffset, rfl, fun hone => href.trans (if_pos hone),
      fun i htwo hik hlow => ?_, ?_, rfl, fun hspare => ?_, fun sp p hspare hsp hp => ⟨fun hup hcap => ?_, fun hnot => ?_⟩,
      ?_, ?_, ?_, ?_, ?_, ?_, rfl, rfl, rfl, rfl, rfl, rfl, rfl, fun c hc => ?_, hreached.otherLanes,
      ⟨hreached.time.timestamp, hreached.time.refmon, hreached.time.slotDue, hreached.time.lineStarted,
        hreached.time.pending⟩, hreached.port, fun l hln hlj => ⟨?_, ?_⟩⟩
    · exact href.trans ((if_neg (Nat.not_le.mpr htwo)).trans (congrArg _ (Bond.refIndex_lowest htwo hik hlow)))
    · rfl
    · exact hrejoin (State.moveTarget_noSpare (by rw [hreached.bond]; exact hspare))
    · have hup' : (u.lanes.get sp).mode = .locked := by rw [hreached.otherLanes sp hsp]; exact hup
      exact hmove sp ((htarget sp p hspare hp).trans (if_pos ⟨hup', hcap⟩))
    · refine hrejoin ((htarget sp p hspare hp).trans (if_neg ?_))
      rw [hreached.otherLanes sp hsp]
      rintro ⟨hup, hcap⟩
      exact hnot.elim (fun hdown => hdown hup) fun hnocap => by simp [hcap] at hnocap
    · simp [Buffer.clear]
    · simp [Buffer.clear]
    · simp [Buffer.clear]
    · simp [Buffer.clear]
    · simp [RollCall.clearEntry, Entry.clear]
    · exact (bondFlag_raiseBond u b b .mendStarted .mendStarted).trans (by simp)
    · exact (Four.get_set ..).trans ((if_neg hc).trans (hreached.otherBonds c hc))
    · simp [hln, hlj, hreached.bufs]
    · simp [hlj, hreached.otherRolls l hln]
  · obtain ⟨hfault, hmembers⟩ := lossReached_faults hreached hn hindex hmending
    have htaken := takeFault_taken b .laneLost (some n) (some k) none u
    have hleft := (takeFault_leaves b .laneLost (some n) (some k) none u).state
    rw [hfault, (snapLaneDown_snapOnly n _).rest] at hexec
    generalize takeFault b .laneLost (some n) (some k) none u = t at *
    refine ⟨_, hexec, htaken.flag, fun hnone => ?_, fun hlt => ?_, fun hle => ?_, ?_, fun c hc => ?_, fun m hm => ?_,
      hreached.time.trans ⟨htaken.time.timestamp, htaken.time.refmon, htaken.time.slotDue, htaken.time.lineStarted,
        htaken.time.pending⟩, htaken.port.trans hreached.port⟩
    · have hfirst := (htaken.first (by rw [hreached.bond]; exact hnone)).1
      rw [hreached.bond, hreached.time.timestamp] at hfirst
      exact hfirst.trans (congrArg (fun st => some (⟨.laneLost, st, some n, some k, none, s.timestamp⟩ : FaultRec)) hstate)
    · rw [hreached.bond, hmembers] at hleft
      exact hleft.trans (if_neg (Nat.not_le.mpr hlt))
    · rw [hreached.bond] at hleft
      exact hleft.trans (if_pos hle)
    · rw [htaken.config, hreached.bond]
    · exact (htaken.others c hc).trans (hreached.otherBonds c hc)
    · rw [htaken.lanes]
      exact hreached.otherLanes m hm

end Sys2Proof.Machine

/-! LANE_SYMBOL as the lane receiver and its notices take it (R22 to R27, R30, R40, R92). -/

namespace Sys2Proof.Machine

/-! ## What a symbol leaves of the receivers -/

/-- What the receivers of a lane's notices and of its symbols leave of the lane receivers themselves. -/
structure ReceiversStay (s t : State) : Prop where
  lanes : t.lanes = s.lanes
  port : t.port = s.port
  time : State.SameTime s t
  keepsLaneFlags : ∀ m f, s.laneFlag m f = true → t.laneFlag m f = true

namespace ReceiversStay

theorem refl (s : State) : ReceiversStay s s := ⟨rfl, rfl, ⟨rfl, rfl, rfl, rfl, rfl⟩, fun _ _ => id⟩

theorem trans {s t u : State} (h : ReceiversStay s t) (k : ReceiversStay t u) : ReceiversStay s u :=
  ⟨k.lanes.trans h.lanes, k.port.trans h.port, h.time.trans k.time, fun m f hf => k.keepsLaneFlags m f (h.keepsLaneFlags m f hf)⟩

theorem of_noticeFrame {s t : State} (h : NoticeFrame s t) : ReceiversStay s t where
  lanes := h.lanes
  port := h.port
  time := h.time
  keepsLaneFlags m f hf := by
    unfold State.laneFlag at *
    rw [h.lanePending]
    exact hf

theorem of_lanesStay {s t : State} (h : LanesStay s t) : ReceiversStay s t := .of_noticeFrame (.of_lanesStay h)

theorem of_rollMoves {n : Lane} {s t : State} (h : RollMoves n s t) : ReceiversStay s t :=
  ⟨h.lanes, h.port, h.time, h.keepsLaneFlags⟩

theorem modRoll (n : Lane) (f : RollCall → RollCall) (s : State) : ReceiversStay s (s.modRoll n f) :=
  ⟨rfl, rfl, ⟨rfl, rfl, rfl, rfl, rfl⟩, fun _ _ => id⟩

end ReceiversStay

theorem noticeLockLost_receivers (n : Lane) (cause : LossCause) (late lateEntry : Bool) (s : State) :
    ReceiversStay s (noticeLockLost n cause late lateEntry s) :=
  (ReceiversStay.modRoll n _ s).trans (.of_noticeFrame (noticeLockLost_frame n cause late lateEntry s))

theorem noticeLockGained_receivers (n : Lane) (late : Bool) (s : State) : ReceiversStay s (noticeLockGained n late s) :=
  (ReceiversStay.modRoll n _ s).trans (.of_lanesStay (tellOwner_lanesStay n _ late _))

theorem symbolNotice_receivers (n : Lane) (was : LaneMode) (late lateEntry : Bool) (s : State) :
    ReceiversStay s (symbolNotice n was late lateEntry s) := by
  unfold symbolNotice
  split
  · exact noticeLockGained_receivers n late s
  · exact noticeLockLost_receivers n .strikes late lateEntry s
  · exact .refl s

/-! ## A symbol in its two halves -/

/-- What the roll-call unit and the snapshot unit make of a symbol, before the lane's own logic takes it (R40, R174). -/
def symbolSeen (n : Lane) (cls : SymbolClass) (lateEntry : Bool) (s : State) : State :=
  snapTake n cls (rollTake n cls lateEntry s)

theorem symbolSeen_receivers (n : Lane) (cls : SymbolClass) (lateEntry : Bool) (s : State) :
    ReceiversStay s (symbolSeen n cls lateEntry s) :=
  (ReceiversStay.of_rollMoves (rollTake_rollMoves n cls lateEntry s)).trans
    (.of_noticeFrame (.of_snapOnly (snapTake_snapOnly n cls _)))

/-- The notice of the change and the write side, in the order of the operands (R22, R30). -/
def handOn (n : Lane) (cls : SymbolClass) (was : LaneMode) (h : Handing) (s : State) : State :=
  if h.noticeFirst then writeTake n cls (was == .locked) h.lateReport (symbolNotice n was h.lateNotice h.lateEntry s)
  else symbolNotice n was h.lateNotice h.lateEntry (writeTake n cls (was == .locked) h.lateReport s)

theorem handOn_receivers (n : Lane) (cls : SymbolClass) (was : LaneMode) (h : Handing) (s : State) :
    ReceiversStay s (handOn n cls was h s) := by
  have hwrite := fun t => ReceiversStay.of_lanesStay (writeTake_lanesStay n cls (was == .locked) h.lateReport t)
  have hnotice := fun t => symbolNotice_receivers n was h.lateNotice h.lateEntry t
  unfold handOn
  split
  · exact (hnotice s).trans (hwrite _)
  · exact (hwrite s).trans (hnotice _)

theorem execLaneSymbol_eq {n : Lane} {p : LinePattern} {h : Handing} {s : State}
    (hclass : (s.lanes.get n).mode.classifies = true) :
    exec (.laneSymbol n p h) s = .next (handOn n (classify (s.lanes.get n).polarity p) (s.lanes.get n).mode h
      (laneTake n (classify (s.lanes.get n).polarity p) (s.lanes.get n).mode
        (symbolSeen n (classify (s.lanes.get n).polarity p) h.lateEntry s))) :=
  congrArg Host.Outcome.next (if_pos hclass)

/-- The change of one lane receiver and of its own flags. -/
structure LaneMoved (n : Lane) (l : LaneRx) (s t : State) : Prop where
  lane : t.lanes.get n = l
  otherLanes : State.OtherLanes n s t
  port : t.port = s.port
  time : State.SameTime s t

theorem LaneMoved.of_receivers {n : Lane} {l : LaneRx} {s t u v : State} (hbefore : ReceiversStay s t) (h : LaneMoved n l t u)
    (hafter : ReceiversStay u v) : LaneMoved n l s v where
  lane := by rw [hafter.lanes]; exact h.lane
  otherLanes m hm := by rw [hafter.lanes, h.otherLanes m hm, hbefore.lanes]
  port := hafter.port.trans (h.port.trans hbefore.port)
  time := (hbefore.time.trans h.time).trans hafter.time

theorem modLane_moved (n : Lane) (f : LaneRx → LaneRx) (s : State) : LaneMoved n (f (s.lanes.get n)) s (s.modLane n f) where
  lane := by simp
  otherLanes m hm := by simp [hm]
  port := rfl
  time := ⟨rfl, rfl, rfl, rfl, rfl⟩

theorem LaneMoved.raiseLane {n : Lane} {l : LaneRx} {s t : State} (h : LaneMoved n l s t) (f : LaneFlag) :
    LaneMoved n l s (t.raiseLane n f) :=
  ⟨h.lane, h.otherLanes, h.port, h.time.trans ⟨rfl, rfl, rfl, rfl, rfl⟩⟩

/-! ## A symbol in LOCKED -/

/-- The lane after a symbol in LOCKED: the fourth strike ends the lock (R25, R27). -/
def LaneRx.symbolLocked (l : LaneRx) (cls : SymbolClass) : LaneRx :=
  if Config.strikeLimit ≤ (l.strike cls).strikes then (l.strike cls).struckOut else l.strike cls

theorem lockedSymbol_moved (n : Lane) (cls : SymbolClass) (s : State) :
    LaneMoved n ((s.lanes.get n).symbolLocked cls) s (lockedSymbol n cls s) := by
  unfold lockedSymbol LaneRx.symbolLocked
  dsimp only
  split
  · exact (modLane_moved n (fun l => (l.strike cls).struckOut) s).raiseLane _
  · exact modLane_moved n (fun l => l.strike cls) s

/-- The fourth strike raises LOCK_LOST, and the lane is in SEEKING (R25, R27). -/
theorem lockedSymbol_struckOut {n : Lane} {cls : SymbolClass} {s : State}
    (h : Config.strikeLimit ≤ ((s.lanes.get n).strike cls).strikes) :
    ((lockedSymbol n cls s).lanes.get n).mode = .seeking ∧ (lockedSymbol n cls s).laneFlag n .lockLost = true := by
  rw [lockedSymbol, if_pos h]
  exact ⟨by simp [LaneRx.struckOut], by simp [laneFlag_raiseLane]⟩

theorem symbolNotice_struckOut {n : Lane} {s : State} (late lateEntry : Bool) (h : (s.lanes.get n).mode = .seeking) :
    symbolNotice n .locked late lateEntry s = noticeLockLost n .strikes late lateEntry s := by
  simp only [symbolNotice, h]

/-- The roll-call unit of a lane that has lost its lock listens no longer, whatever order the symbol is handed on in (R40). -/
theorem handOn_struckOut {n : Lane} {s : State} (cls : SymbolClass) (h : Handing) (hmode : (s.lanes.get n).mode = .seeking) :
    ((handOn n cls .locked h s).rolls.get n).listening = false := by
  have hquiet : ∀ t : State, ((noticeLockLost n .strikes h.lateNotice h.lateEntry t).rolls.get n).listening = false :=
    fun t => (noticeLockLost_frame n .strikes _ _ t).listening n (by simp [RollCall.lockLost])
  unfold handOn
  split
  · rw [symbolNotice_struckOut _ _ hmode, (writeTake_lanesStay n cls _ h.lateReport _).listening]
    exact hquiet s
  · rw [symbolNotice_struckOut _ _ (by rw [(writeTake_lanesStay n cls _ h.lateReport s).lanes]; exact hmode)]
    exact hquiet _

theorem LaneRx.strike_polarity (l : LaneRx) (cls : SymbolClass) : (l.strike cls).polarity = l.polarity := by
  unfold LaneRx.strike
  split_ifs <;> rfl

theorem LaneRx.symbolLocked_polarity (l : LaneRx) (cls : SymbolClass) : (l.symbolLocked cls).polarity = l.polarity := by
  unfold LaneRx.symbolLocked
  split
  · rw [LaneRx.struckOut, LaneRx.countLoss_fields]
    exact l.strike_polarity cls
  · exact l.strike_polarity cls

theorem LaneRx.strike_valid {l : LaneRx} {cls : SymbolClass} (h : cls.isValid = true) : l.strike cls =
    if l.relief + 1 = 64 then { l with relief := 0, strikes := l.strikes - 1 } else { l with relief := l.relief + 1 } :=
  if_pos h

theorem LaneRx.strike_bad {l : LaneRx} {cls : SymbolClass} (h : cls.isValid = false) : l.strike cls =
    { l with strikes := l.strikes + 1, relief := 0, invalidSymbols := satInc l.invalidSymbols } := if_neg (by simp [h])

theorem LaneRx.symbolLocked_stays {l : LaneRx} {cls : SymbolClass} (h : (l.strike cls).strikes < 4) :
    l.symbolLocked cls = l.strike cls := if_neg (Nat.not_le.mpr h)

theorem LaneRx.symbolLocked_ends {l : LaneRx} {cls : SymbolClass} (h : 4 ≤ (l.strike cls).strikes) :
    l.symbolLocked cls = (l.strike cls).struckOut := if_pos h

/-- Settles O23: the lane is `LaneRx.symbolLocked`, and the fourth strike's notice silences the roll-call unit. -/
theorem lockedSymbolsStrikeOrRelieveALane : Obligations.LockedSymbolsStrikeOrRelieveALane := by
  intro n p h s hlocked
  have hexec := execLaneSymbol_eq (p := p) (h := h) (show (s.lanes.get n).mode.classifies = true by rw [hlocked]; rfl)
  rw [hlocked] at hexec
  have hseen := symbolSeen_receivers n (classify (s.lanes.get n).polarity p) h.lateEntry s
  refine ⟨_, hexec, ?_⟩
  dsimp only [laneTake]
  generalize classify (s.lanes.get n).polarity p = cls at *
  generalize symbolSeen n cls h.lateEntry s = u at *
  have hmoved := LaneMoved.of_receivers hseen (lockedSymbol_moved n cls u) (handOn_receivers n cls .locked h _)
  rw [hseen.lanes] at hmoved
  refine ⟨hmoved.otherLanes, hmoved.time, hmoved.port, ?_⟩
  rw [hmoved.lane]
  refine ⟨LaneRx.symbolLocked_polarity _ cls, fun hvalid hfew hshort => ?_, fun hvalid hfew hlong => ?_,
    fun hbad hfew => ?_, fun hbad hfour => ?_⟩
  · have hstrike := LaneRx.strike_valid (l := s.lanes.get n) hvalid
    rw [if_neg hshort] at hstrike
    rw [LaneRx.symbolLocked_stays (by rw [hstrike]; exact hfew), hstrike]
  · have hstrike := LaneRx.strike_valid (l := s.lanes.get n) hvalid
    rw [if_pos hlong] at hstrike
    rw [LaneRx.symbolLocked_stays (by rw [hstrike]; exact Nat.lt_of_le_of_lt (Nat.sub_le _ _) hfew), hstrike]
  · have hstrike := LaneRx.strike_bad (l := s.lanes.get n) hbad
    rw [LaneRx.symbolLocked_stays (by rw [hstrike]; exact hfew), hstrike]
  · have hstrike := LaneRx.strike_bad (l := s.lanes.get n) hbad
    have hends : 4 ≤ ((s.lanes.get n).strike cls).strikes := by rw [hstrike]; exact Nat.le_of_eq (congrArg (· + 1) hfour).symm
    rw [← hseen.lanes] at hends
    obtain ⟨hseeking, hflag⟩ := lockedSymbol_struckOut hends
    refine ⟨?_, (handOn_receivers n cls .locked h _).keepsLaneFlags _ _ hflag, handOn_struckOut cls h hseeking⟩
    rw [hseen.lanes] at hends
    rw [LaneRx.symbolLocked_ends hends, hstrike, LaneRx.struckOut, LaneRx.countLoss_fields]
    simp [LaneRx.clearRuns, hlocked]

end Sys2Proof.Machine

/-! A symbol of a lane in SEEKING: the lock run, the inverted run, and what is on its way as the lane locks (R23, R24, R92). -/

namespace Sys2Proof.Machine

/-! ## The lane's own fields -/

theorem LaneRx.seek_valid {l : LaneRx} {cls : SymbolClass} (h : cls.isValid = true) (hrun : l.lockRun + 1 ≠ 32) :
    l.seek cls = { l with lockRun := l.lockRun + 1, invRun := 0 } := by
  have hcls : cls ≠ .inverted := by rintro rfl; contradiction
  simp [LaneRx.seek, h, hcls, Config.lockRunLength, Config.invertedRunLength, hrun]

theorem LaneRx.seek_locks {l : LaneRx} {cls : SymbolClass} (h : cls.isValid = true) (hrun : l.lockRun + 1 = 32) :
    l.seek cls = { l with mode := .locked, lockRun := 32, invRun := 0, strikes := 0, relief := 0 } := by
  simp [LaneRx.seek, h, Config.lockRunLength, hrun]

/-- A bad symbol that is no INVERTED of a lane with auto-polarity ends both runs (R23, R24). -/
theorem LaneRx.seek_bad {l : LaneRx} {cls : SymbolClass} (h : cls.isValid = false)
    (hinv : ¬ (l.autoPolarity = true ∧ cls = .inverted)) : l.seek cls = { l with lockRun := 0, invRun := 0 } := by
  simp only [LaneRx.seek, h, if_neg hinv]
  rfl

theorem LaneRx.seek_inverted {l : LaneRx} (hauto : l.autoPolarity = true) (hrun : l.invRun + 1 ≠ 16) :
    l.seek .inverted = { l with lockRun := 0, invRun := l.invRun + 1 } := by
  simp [LaneRx.seek, SymbolClass.isValid, hauto, Config.lockRunLength, Config.invertedRunLength, hrun]

theorem LaneRx.seek_flips {l : LaneRx} (hauto : l.autoPolarity = true) (hrun : l.invRun + 1 = 16) :
    (l.seek .inverted).mode = l.mode ∧ (l.seek .inverted).lockRun = 0 ∧ (l.seek .inverted).invRun = 0
      ∧ (l.seek .inverted).polarity ≠ l.polarity := by
  have hlock : ¬ (if SymbolClass.inverted.isValid then l.lockRun + 1 else 0) = Config.lockRunLength := by
    simp [SymbolClass.isValid, Config.lockRunLength]
  have hflip : (if l.autoPolarity = true ∧ SymbolClass.inverted = .inverted then l.invRun + 1 else 0)
      = Config.invertedRunLength := (if_pos ⟨hauto, rfl⟩).trans hrun
  unfold LaneRx.seek
  dsimp only
  rw [if_neg hlock, if_pos hflip]
  refine ⟨rfl, rfl, rfl, ?_⟩
  cases l.polarity <;> exact nofun

theorem LaneRx.seek_counters (l : LaneRx) (cls : SymbolClass) : (l.seek cls).invalidSymbols = l.invalidSymbols
    ∧ (l.seek cls).lockLosses = l.lockLosses ∧ (l.seek cls).lastLoss = l.lastLoss := by
  unfold LaneRx.seek
  dsimp only
  split_ifs <;> exact ⟨rfl, rfl, rfl⟩

theorem seekSymbol_locks {n : Lane} {cls : SymbolClass} {s : State} (h : ((s.lanes.get n).seek cls).mode = .locked) :
    seekSymbol n cls s = ((s.arrivedFrom (.receiver n)).modLane n fun l => l.seek cls).raiseLane n .lockGained := if_pos h

theorem seekSymbol_moved (n : Lane) (cls : SymbolClass) (s : State) :
    LaneMoved n ((s.lanes.get n).seek cls) s (seekSymbol n cls s) := by
  have harrived := ReceiversStay.of_lanesStay (arrivedFrom_lanesStay (.receiver n) s)
  unfold seekSymbol
  dsimp only
  split
  · have hmoved := (modLane_moved n (fun l => l.seek cls) (s.arrivedFrom (.receiver n))).raiseLane .lockGained
    rw [harrived.lanes] at hmoved
    exact .of_receivers harrived hmoved (.refl _)
  · split
    · exact modLane_moved n (fun l => l.seek cls) s
    · exact (modLane_moved n (fun l => l.seek cls) s).raiseLane .polarityFlipped

theorem seekSymbol_flips {n : Lane} {cls : SymbolClass} {s : State} (hmode : ((s.lanes.get n).seek cls).mode ≠ .locked)
    (hpol : ((s.lanes.get n).seek cls).polarity ≠ (s.lanes.get n).polarity) :
    (seekSymbol n cls s).laneFlag n .polarityFlipped = true := by
  simp [seekSymbol, hmode, hpol, laneFlag_raiseLane]

/-! ## What is on its way as the lane locks -/

/-- Nothing of a lane's receiver is on its way to any bond. -/
def State.NothingOf (s : State) (n : Lane) : Prop := ∀ b, ∀ x ∈ (s.bonds.get b).inFlight, x.sender ≠ .receiver n

/-- No lock-lost notice of a lane is on its way to any bond. -/
def State.NoLossOf (s : State) (n : Lane) : Prop := ∀ b, ∀ x ∈ (s.bonds.get b).inFlight, x.losesLock n = false

/-- As a lane locks, LOCK_GAINED is raised and what its receiver had on its way has arrived (R92; log 1). -/
theorem seekSymbol_locked {n : Lane} {cls : SymbolClass} {s : State} (h : ((s.lanes.get n).seek cls).mode = .locked) :
    (seekSymbol n cls s).laneFlag n .lockGained = true ∧ (seekSymbol n cls s).NothingOf n := by
  have hdone := arrivedFrom_done n s
  rw [seekSymbol_locks h]
  generalize s.arrivedFrom (.receiver n) = t at hdone
  exact ⟨by simp [laneFlag_raiseLane], hdone⟩

theorem Notice.losesLock_of_sender {x : Notice} {n : Lane} (h : x.sender ≠ .receiver n) : x.losesLock n = false := by
  cases x
  case lockLost m cause =>
    have hm : m ≠ n := fun heq => h (congrArg Sender.receiver heq)
    simpa [Notice.losesLock] using hm
  all_goals rfl

theorem State.NothingOf.noLossOf {s : State} {n : Lane} (h : s.NothingOf n) : s.NoLossOf n :=
  fun b x hx => Notice.losesLock_of_sender (h b x hx)

theorem State.NoLossOf.of_leftInFlight {xs ys : List Notice} {n : Lane} (h : LeftInFlight xs ys)
    (hxs : ∀ x ∈ xs, x.losesLock n = false) : ∀ y ∈ ys, y.losesLock n = false := by
  obtain ⟨as, es, rfl, hsub, hes⟩ := h
  intro y hy
  rcases List.mem_append.mp hy with hy | hy
  · exact hxs y (hsub.subset hy)
  · obtain ⟨m, rfl⟩ := hes y hy
    rfl

/-- The lock-gained notice finds nothing of its receiver on its way, and leaves no loss there. -/
theorem tellOwner_lockGained_noLoss {s : State} {n : Lane} (h : s.NothingOf n) (late : Bool) :
    (s.tellOwner n (.lockGained n) late).NoLossOf n := by
  cases late with
  | true =>
    intro b x hx
    rw [State.tellOwner_late, State.sendOwner_get] at hx
    split at hx
    · rcases List.mem_append.mp hx with hx | hx
      · exact h.noLossOf b x hx
      · rw [List.mem_singleton.mp hx]
        rfl
    · exact h.noLossOf b x hx
  | false =>
    cases howner : s.owner n with
    | none =>
      have hself : s.tellOwner n (.lockGained n) false = s := by simp [State.tellOwner, State.toOwner, howner]
      rw [hself]
      exact h.noLossOf
    | some c =>
      have htold : s.tellOwner n (.lockGained n) false = bondTakes c (.lockGained n) s := by
        rw [State.tellOwner, State.toOwner, howner]
        exact tell_now (h c)
      have hmoves := bondTakes_moves c (.lockGained n) s
      rw [htold]
      intro b
      by_cases hb : b = c
      · rw [hb]
        exact State.NoLossOf.of_leftInFlight hmoves.inFlight (h.noLossOf c)
      · rw [hmoves.others b hb]
        exact h.noLossOf b

theorem withdraw_inFlight (n : Lane) (s : State) (b : BondId) :
    ((s.withdraw n).bonds.get b).inFlight = (s.bonds.get b).inFlight := by
  have hbond : ∀ bd : Bond, (bd.withdraw n).inFlight = bd.inFlight := fun bd => by
    unfold Bond.withdraw
    split <;> rfl
  unfold State.withdraw
  split
  · rw [State.modBond_get]
    split
    next hb => rw [hb, hbond]
    next => rfl
  · rfl

/-- The write side sends nothing on a symbol classified in SEEKING: it closes at most (R106). -/
theorem writeTake_seeking_inFlight (n : Lane) (cls : SymbolClass) (late : Bool) (s : State) (b : BondId) :
    ((writeTake n cls false late s).bonds.get b).inFlight = (s.bonds.get b).inFlight := by
  unfold writeTake writeAct
  dsimp only
  split
  · split
    · contradiction
    · rfl
  · split
    · contradiction
    · rfl
  · exact withdraw_inFlight n _ b

/-! ## The obligation -/

theorem symbolNotice_locked {n : Lane} {s : State} (late lateEntry : Bool) (h : (s.lanes.get n).mode = .locked) :
    symbolNotice n .seeking late lateEntry s = noticeLockGained n late s := by
  simp only [symbolNotice, h]

theorem noticeLockGained_listening (n : Lane) (late : Bool) (s : State) :
    ((noticeLockGained n late s).rolls.get n).listening = true := by
  rw [noticeLockGained, (tellOwner_lanesStay n _ late _).listening]
  simp [RollCall.lockGained]

/-- A lane that has locked with nothing of its receiver on its way: its roll-call unit listens, and no loss of it is on its
way, whatever order the symbol is handed on in (R40, R92). -/
theorem handOn_locked {n : Lane} {s : State} (cls : SymbolClass) (h : Handing) (hmode : (s.lanes.get n).mode = .locked)
    (hnothing : s.NothingOf n) :
    ((handOn n cls .seeking h s).rolls.get n).listening = true ∧ (handOn n cls .seeking h s).NoLossOf n := by
  have hwrite := fun t => writeTake_lanesStay n cls (LaneMode.seeking == .locked) h.lateReport t
  have hflight := writeTake_seeking_inFlight n cls h.lateReport
  unfold handOn
  split
  · rw [symbolNotice_locked _ _ hmode]
    refine ⟨by rw [(hwrite _).listening]; exact noticeLockGained_listening n _ s, fun b => ?_⟩
    change ∀ x ∈ ((writeTake n cls false h.lateReport _).bonds.get b).inFlight, _
    rw [hflight]
    exact tellOwner_lockGained_noLoss (s := s.modRoll n RollCall.lockGained) hnothing _ b
  · rw [symbolNotice_locked _ _ (by rw [(hwrite s).lanes]; exact hmode)]
    refine ⟨noticeLockGained_listening n _ _, tellOwner_lockGained_noLoss (fun b => ?_) _⟩
    change ∀ x ∈ ((writeTake n cls false h.lateReport s).bonds.get b).inFlight, _
    rw [hflight]
    exact hnothing b

/-- Settles O22: the lane is `LaneRx.seek`, and as it locks `arrivedFrom_done` empties what its receiver has on its way. -/
theorem seekingSymbolsLockOrFlipALane : Obligations.SeekingSymbolsLockOrFlipALane := by
  intro n p h s hseeking
  have hexec := execLaneSymbol_eq (p := p) (h := h) (show (s.lanes.get n).mode.classifies = true by rw [hseeking]; rfl)
  rw [hseeking] at hexec
  have hseen := symbolSeen_receivers n (classify (s.lanes.get n).polarity p) h.lateEntry s
  refine ⟨_, hexec, ?_⟩
  dsimp only [laneTake]
  generalize classify (s.lanes.get n).polarity p = cls at *
  generalize symbolSeen n cls h.lateEntry s = u at *
  have hafter := handOn_receivers n cls .seeking h (seekSymbol n cls u)
  have hmoved := LaneMoved.of_receivers hseen (seekSymbol_moved n cls u) hafter
  have hflag := fun f => hafter.keepsLaneFlags n f
  rw [hseen.lanes] at hmoved
  refine ⟨hmoved.otherLanes, hmoved.time, hmoved.port, ?_⟩
  rw [hmoved.lane]
  obtain ⟨hinvalid, hlosses, hlast⟩ := (s.lanes.get n).seek_counters cls
  refine ⟨hinvalid, hlosses, hlast, fun hvalid hrun => ?_, fun hvalid hrun => ?_, fun hbad => ?_, fun hinv hauto => ?_,
    fun hinv hauto hrun => ?_, fun hinv hauto hrun => ?_⟩
  · rw [LaneRx.seek_valid hvalid hrun]
    exact ⟨hseeking, rfl, rfl, rfl⟩
  · have hlocks := LaneRx.seek_locks hvalid hrun
    have hmode : ((u.lanes.get n).seek cls).mode = .locked := by rw [hseen.lanes, hlocks]
    have hlocked : ((seekSymbol n cls u).lanes.get n).mode = .locked := by
      rw [(seekSymbol_moved n cls u).lane]
      exact hmode
    obtain ⟨hgained, hnothing⟩ := seekSymbol_locked hmode
    obtain ⟨hlistening, hnoLoss⟩ := handOn_locked cls h hlocked hnothing
    refine ⟨by rw [hlocks], by rw [hlocks], by rw [hlocks], by rw [hlocks], by rw [hlocks], by rw [hlocks],
      hflag _ hgained, hlistening, hnoLoss⟩
  · rw [LaneRx.seek_bad (by rw [hbad]; rfl) (by rw [hbad]; exact nofun)]
    exact ⟨hseeking, rfl, rfl, rfl⟩
  · rw [LaneRx.seek_bad (by rw [hinv]; rfl) (by rw [hauto]; exact nofun)]
    exact ⟨hseeking, rfl, rfl, rfl⟩
  · rw [hinv, LaneRx.seek_inverted hauto hrun]
    exact ⟨hseeking, rfl, rfl, rfl⟩
  · obtain ⟨hmode, hlock, hzero, hpol⟩ := LaneRx.seek_flips hauto hrun
    rw [hinv] at hflag ⊢
    refine ⟨hmode.trans hseeking, hlock, hzero, hpol, hflag _ (seekSymbol_flips ?_ ?_)⟩
    · rw [hseen.lanes, hmode, hseeking]
      exact nofun
    · rw [hseen.lanes]
      exact hpol

end Sys2Proof.Machine

/-! A unit that an OPEN write side writes (R22, R40, R102, R103). -/

namespace Sys2Proof.Machine

/-! ## A symbol that ends no record -/

/-- With no record open, a symbol that is no HEAD opens none and ends none (R41). -/
theorem assemble_none {r : RollCall} {cls : SymbolClass} (hopen : r.openRec = none) (hhead : cls ≠ .head) :
    assemble r cls = (none, none) := by
  simp only [assemble, hopen, hhead, false_and, if_false]

/-- What such a symbol leaves as it was before the lane's own logic takes it. -/
theorem symbolSeen_noRecord {n : Lane} {cls : SymbolClass} {s : State} (lateEntry : Bool)
    (hopen : (s.rolls.get n).openRec = none) (hhead : cls ≠ .head) :
    (symbolSeen n cls lateEntry s).bonds = s.bonds ∧ (symbolSeen n cls lateEntry s).bufs = s.bufs
      ∧ ∀ m, m ≠ n → (symbolSeen n cls lateEntry s).rolls.get m = s.rolls.get m := by
  have hroll : rollTake n cls lateEntry s = s.modRoll n fun r => { r with openRec := none, prevMark := cls == .mark } := by
    simp only [rollTake, assemble_none hopen hhead]
  rw [symbolSeen, (snapTake_snapOnly n cls _).rest, hroll]
  exact ⟨rfl, rfl, fun m hm => by simp [hm]⟩

/-! ## The write side -/

/-- A bad symbol at a data position is written as a tainted unit of value 0 (R102). -/
theorem writeAction_bad {cls : SymbolClass} {count sweep : Nat} (h : cls.isValid = false) (hcount : count < sweep) :
    writeAction cls count sweep = .write (.unit 0 true) := by
  unfold writeAction
  rw [if_pos hcount]
  cases cls
  case inverted | invalid => rfl
  all_goals contradiction

theorem writeTake_writes {n : Lane} {cls : SymbolClass} {s : State} {sweep : Nat} {e : BufEntry} (late : Bool)
    (hside : (s.bufs.get n).side = .opened) (hsweep : s.ownerSweep n = some sweep)
    (haction : writeAction cls (s.bufs.get n).sweepCount sweep = .write e) (hroom : (s.bufs.get n).entries.length < 1024) :
    writeTake n cls true late s = s.modBuf n fun bf =>
      ({ bf with markMemory := markMemoryAfter cls true s.timestamp } : Buffer).push e s.timestamp := by
  have hsweep' : ∀ v : Eight Buffer, State.ownerSweep { s with bufs := v } n = some sweep := fun _ => hsweep
  simp [writeTake, writeAct, writeOpen, hside, State.modBuf, hsweep', haction, hroom, Config.bufferDepth]

/-- A LOCKED lane that stays LOCKED sends no notice, so that its write side takes the symbol alone (R30). -/
theorem handOn_stays {n : Lane} {s : State} (cls : SymbolClass) (h : Handing) (hmode : (s.lanes.get n).mode = .locked) :
    handOn n cls .locked h s = writeTake n cls true h.lateReport s := by
  have hwrite := (writeTake_lanesStay n cls true h.lateReport s).lanes
  unfold handOn
  rw [symbolNotice_same _ _ hmode]
  change (if h.noticeFirst then writeTake n cls true h.lateReport s
    else symbolNotice n .locked _ _ (writeTake n cls true h.lateReport s)) = _
  rw [symbolNotice_same _ _ (by rw [hwrite]; exact hmode), ite_self]

theorem lockedSymbol_stays {n : Lane} {cls : SymbolClass} {s : State} (h : ((s.lanes.get n).strike cls).strikes < 4) :
    lockedSymbol n cls s = s.modLane n fun l => l.strike cls := if_neg (Nat.not_le.mpr h)

/-- A LOCKED lane short of its fourth strike: its write side takes the symbol, after the units before it. -/
theorem execLaneSymbol_stays {n : Lane} {p : LinePattern} {h : Handing} {s : State} {cls : SymbolClass}
    (hcls : classify (s.lanes.get n).polarity p = cls) (hlocked : (s.lanes.get n).mode = .locked)
    (hstrikes : ((s.lanes.get n).strike cls).strikes < 4) :
    exec (.laneSymbol n p h) s = .next (writeTake n cls true h.lateReport
      ((symbolSeen n cls h.lateEntry s).modLane n fun l => l.strike cls)) := by
  have hexec := execLaneSymbol_eq (p := p) (h := h) (show (s.lanes.get n).mode.classifies = true by rw [hlocked]; rfl)
  have hlanes := (symbolSeen_receivers n cls h.lateEntry s).lanes
  rw [hlocked, hcls] at hexec
  rw [hexec, laneTake, lockedSymbol_stays (by rw [hlanes]; exact hstrikes), handOn_stays]
  simp [hlanes, hlocked]

/-- The step of a symbol that an OPEN write side writes as the entry `e`. -/
theorem execLaneSymbol_writes {n : Lane} {p : LinePattern} {h : Handing} {s : State} {cls : SymbolClass} {sweep : Nat}
    {v : Word} {taint : Bool}
    (hcls : classify (s.lanes.get n).polarity p = cls) (hlocked : (s.lanes.get n).mode = .locked)
    (hstrikes : ((s.lanes.get n).strike cls).strikes < 4) (hopen : (s.rolls.get n).openRec = none) (hhead : cls ≠ .head)
    (hside : (s.bufs.get n).side = .opened) (hsweep : s.ownerSweep n = some sweep)
    (haction : writeAction cls (s.bufs.get n).sweepCount sweep = .write (.unit v taint))
    (hroom : (s.bufs.get n).entries.length < 1024) :
    ∃ t, exec (.laneSymbol n p h) s = .next t
      ∧ (t.bufs.get n).entries = (s.bufs.get n).entries ++ [.unit v taint]
      ∧ (t.bufs.get n).sweepCount = (s.bufs.get n).sweepCount + 1 ∧ (t.bufs.get n).side = .opened
      ∧ State.OtherLanes n s t ∧ State.SameTime s t ∧ t.port = s.port ∧ t.bonds = s.bonds
      ∧ ∀ m, m ≠ n → t.bufs.get m = s.bufs.get m ∧ t.rolls.get m = s.rolls.get m := by
  have hexec := execLaneSymbol_stays (h := h) hcls hlocked hstrikes
  have hseen := symbolSeen_receivers n cls h.lateEntry s
  obtain ⟨hbonds, hbufs, hrolls⟩ := symbolSeen_noRecord h.lateEntry hopen hhead
  generalize symbolSeen n cls h.lateEntry s = u at *
  have hsweep' : (u.modLane n fun l => l.strike cls).ownerSweep n = some sweep := by
    have hsame : (u.modLane n fun l => l.strike cls).ownerSweep n = s.ownerSweep n := by
      simp only [State.ownerSweep, State.owner, State.modLane_bonds, hbonds]
    rw [hsame]
    exact hsweep
  rw [writeTake_writes h.lateReport (by simpa [hbufs] using hside) hsweep' (by simpa [hbufs] using haction)
    (by simpa [hbufs] using hroom)] at hexec
  refine ⟨_, hexec, ?_, ?_, ?_, fun m hm => ?_, hseen.time.trans ⟨rfl, rfl, rfl, rfl, rfl⟩, hseen.port, hbonds,
    fun m hm => ⟨?_, hrolls m hm⟩⟩
  · simp [Buffer.push, hbufs]
  · simp [Buffer.push, hbufs]
  · simp [Buffer.push, hbufs, hside]
  · simp [hm, hseen.lanes]
  · simp [hm, hbufs]

/-- Settles O28: a DATA symbol relieves or adds no strike, and a bad one adds the third at most. -/
theorem openWriteSideWritesUnits : Obligations.OpenWriteSideWritesUnits := by
  intro n p h s sweep hlocked hstrikes hopen hside hsweep hcount hroom
  refine ⟨fun u hcls => ?_, fun hbad => ?_⟩
  · refine execLaneSymbol_writes hcls hlocked ?_ hopen nofun hside hsweep (if_pos hcount) hroom
    exact Nat.lt_of_le_of_lt ((s.lanes.get n).strike_strikes_le rfl) (Nat.lt_succ_of_lt hstrikes)
  · generalize hcls : classify (s.lanes.get n).polarity p = cls at hbad
    refine execLaneSymbol_writes hcls hlocked ?_ hopen (by rintro rfl; contradiction) hside hsweep
      (writeAction_bad hbad hcount) hroom
    rw [LaneRx.strike_bad hbad]
    exact Nat.succ_lt_succ hstrikes

end Sys2Proof.Machine

/-! A record that a symbol completes: its outcome, the entry, and the notice of a changed status (R5, R41, R43 to R49, R53). -/

namespace Sys2Proof.Machine

/-! ## The outcome of a record -/

theorem labelLength_eq_seven (b : Word) : labelLength b = 7 ↔ b.extractLsb' 8 3 = 7 :=
  ⟨fun h => BitVec.eq_of_toNat_eq h, fun h => congrArg BitVec.toNat h⟩

/-- The record of a list of words, word B giving the length of its label (R5, R6). -/
def recordOf (words : List Word) : Record :=
  recordOfWords (words.getD 0 0) (words.getD 1 0) ((words.drop 2).take ((words.getD 1 0).extractLsb' 8 3).toNat)

theorem judgeRecord_checkFailure {rec : OpenRecord} (h : rec.sum ≠ 0) : judgeRecord rec = .checkFailure := if_pos h

theorem judgeRecord_malformed {rec : OpenRecord} (hsum : rec.sum = 0)
    (h : (rec.words.getD 1 0).extractLsb' 8 3 = 7
      ∨ (recordOf rec.words).common.shape.lanes ≤ (recordOf rec.words).logicalIndex.toNat) : judgeRecord rec = .malformed := by
  unfold judgeRecord
  dsimp only
  rw [if_neg (not_not.mpr hsum)]
  by_cases hlabel : (rec.words.getD 1 0).extractLsb' 8 3 = 7
  · rw [if_pos ((labelLength_eq_seven _).mpr hlabel)]
  · rw [if_neg fun hseven => hlabel ((labelLength_eq_seven _).mp hseven)]
    exact if_pos (h.resolve_left hlabel)

theorem judgeRecord_passes {rec : OpenRecord} (hsum : rec.sum = 0) (hlabel : (rec.words.getD 1 0).extractLsb' 8 3 ≠ 7)
    (hindex : (recordOf rec.words).logicalIndex.toNat < (recordOf rec.words).common.shape.lanes) :
    judgeRecord rec = .valid (recordOf rec.words) := by
  unfold judgeRecord
  dsimp only
  rw [if_neg (not_not.mpr hsum), if_neg fun hseven => hlabel ((labelLength_eq_seven _).mp hseven)]
  exact if_neg (Nat.not_le.mpr hindex)

/-! ## A valid record and the entry -/

theorem Entry.takeValid_new {e : Entry} {r : Record} (now : Word32) (h : e.matches r = false) :
    e.takeValid r now = { e with status := .seen, repeats := 1, record := r, captured := now } := by
  simp [Entry.takeValid, h]

theorem Entry.takeValid_second {e : Entry} {r : Record} (now : Word32) (h : e.matches r = true) (hs : e.status = .seen)
    (hn : e.repeats = 1) : e.takeValid r now = { e with repeats := 2, captured := now } := by
  obtain ⟨status, repeats, record, captured, checkFailures, malformed⟩ := e
  subst hs hn
  simp [Entry.takeValid, h, Config.confirmCount]

theorem Entry.takeValid_third {e : Entry} {r : Record} (now : Word32) (h : e.matches r = true) (hn : e.repeats = 2) :
    e.takeValid r now = { e with status := .confirmed, repeats := 3, captured := now } := by
  simp [Entry.takeValid, h, Config.confirmCount, hn]

theorem Entry.outcomeFlag_confirms {e : Entry} {r : Record} (h : e.matches r = true) (hs : e.status = .seen)
    (hn : e.repeats = 2) : e.outcomeFlag (.valid r) = some .announceConfirmed := by
  simp [Entry.outcomeFlag, h, hs, hn, Config.confirmCount]

theorem Entry.outcomeFlag_changed {e : Entry} {r : Record} (h : e.matches r = false) (hs : e.status = .confirmed) :
    e.outcomeFlag (.valid r) = some .announceChanged := by
  simp [Entry.outcomeFlag, h, hs]

/-- A valid record meets an entry: repeated, confirmed, or new (R44 to R47, R55). -/
theorem Entry.takeValid_cases (e : Entry) (r : Record) (now : Word32) {raised : LaneFlag → Prop}
    (hflag : ∀ f, e.outcomeFlag (.valid r) = some f → raised f) :
    (e.status = .seen → e.record = r → e.repeats = 1 → e.takeValid r now = { e with repeats := 2, captured := now })
    ∧ (e.status = .seen → e.record = r → e.repeats = 2 →
        e.takeValid r now = { e with status := .confirmed, repeats := 3, captured := now } ∧ raised .announceConfirmed)
    ∧ (e.status = .confirmed → e.record = r → e.repeats = 3 → e.takeValid r now = { e with captured := now })
    ∧ (e.status = .empty ∨ e.status = .stale ∨ e.record ≠ r →
        e.takeValid r now = { e with status := .seen, repeats := 1, record := r, captured := now })
    ∧ (e.status = .confirmed → e.record ≠ r → raised .announceChanged) := by
  have hmatch := Entry.matches_iff e r
  have hnew : e.record ≠ r → e.matches r = false := fun hr => Bool.eq_false_iff.mpr fun h => hr (hmatch.mp h).2
  refine ⟨fun hs hr hn => ?_, fun hs hr hn => ?_, fun hs hr hn => ?_, fun hdiffers => ?_, fun hs hr => ?_⟩
  · exact Entry.takeValid_second now (hmatch.mpr ⟨.inl hs, hr⟩) hs hn
  · have h := hmatch.mpr ⟨.inl hs, hr⟩
    exact ⟨Entry.takeValid_third now h hn, hflag _ (Entry.outcomeFlag_confirms h hs hn)⟩
  · exact Entry.takeValid_confirmed now hs hn (hmatch.mpr ⟨.inr hs, hr⟩)
  · refine Entry.takeValid_new now (Bool.eq_false_iff.mpr fun h => ?_)
    obtain ⟨hstatus, hr⟩ := hmatch.mp h
    rcases hdiffers with hs | hs | hne
    · rcases hstatus with h | h <;> simp [hs] at h
    · rcases hstatus with h | h <;> simp [hs] at h
    · exact hne hr
  · exact hflag _ (Entry.outcomeFlag_changed (hnew hr) hs)

/-! ## The outcome and the bonds -/

theorem State.sendOwner_none {s : State} {n : Lane} (h : s.owner n = none) (xs : List Notice) : s.sendOwner n xs = s := by
  have hbonds : (s.bonds.mapIdx fun b bd => if s.owner n = some b then bd.send xs else bd) = s.bonds :=
    Four.ext_get fun b => by simp [h]
  rw [State.sendOwner, hbonds]

/-- The notice of a changed status, sent late or of a lane without an owner, only joins what is on its way (R53). -/
theorem entryNotice_sends {s : State} {n : Lane} {was : EntryStatus} {late : Bool} (h : s.owner n = none ∨ late = true) :
    s.entryNotice n was late = if (s.rolls.get n).entry.status = was then s
      else s.sendOwner n [.entryStatus n (s.rolls.get n).entry.status] := by
  unfold State.entryNotice
  split
  · rfl
  · rcases h with h | h
    · rw [State.sendOwner_none h]
      simp [State.tellOwner, State.toOwner, h]
    · rw [h, State.tellOwner_late]

/-- An outcome that reaches no bond in this step: the entry, its flag, and what joins the owner's way (R43, R53). -/
structure OutcomeTaken (n : Lane) (o : RecordOutcome) (s t : State) : Prop where
  entry : (t.rolls.get n).entry = (s.rolls.get n).entry.takeOutcome o s.timestamp
  openRec : (t.rolls.get n).openRec = (s.rolls.get n).openRec
  otherRolls : ∀ m, m ≠ n → t.rolls.get m = s.rolls.get m
  bufs : t.bufs = s.bufs
  flag : ∀ f, (s.rolls.get n).entry.outcomeFlag o = some f → t.laneFlag n f = true
  bonds : ∀ b, t.bonds.get b =
    if s.owner n = some b ∧ (t.rolls.get n).entry.status ≠ (s.rolls.get n).entry.status then
      { s.bonds.get b with inFlight := (s.bonds.get b).inFlight ++ [.entryStatus n (t.rolls.get n).entry.status] }
    else s.bonds.get b

/-- A raised flag moves the lanes' pending flags alone. -/
theorem raiseLaneFlag_pending (n : Lane) (f : Option LaneFlag) (s : State) :
    ∃ v, s.raiseLaneFlag n f = { s with irq := { s.irq with lanePending := v } } := by
  cases f with
  | none => exact ⟨s.irq.lanePending, rfl⟩
  | some f => exact ⟨_, rfl⟩

theorem raiseLaneFlag_laneFlag {n : Lane} {f : LaneFlag} {o : Option LaneFlag} (s : State) (h : o = some f) :
    (s.raiseLaneFlag n o).laneFlag n f = true := by
  rw [h]
  exact (laneFlag_raiseLane s n n f f).trans (by simp)

theorem takeOutcome_taken {n : Lane} {late : Bool} {s : State} (o : RecordOutcome) (h : s.owner n = none ∨ late = true) :
    OutcomeTaken n o s (takeOutcome n o late s) := by
  let e := (s.rolls.get n).entry
  have hflag := fun f => raiseLaneFlag_laneFlag (n := n) (f := f) (o := e.outcomeFlag o)
    (s.modRoll n fun r => { r with entry := r.entry.takeOutcome o s.timestamp })
  obtain ⟨v, hraised⟩ := raiseLaneFlag_pending n (e.outcomeFlag o)
    (s.modRoll n fun r => { r with entry := r.entry.takeOutcome o s.timestamp })
  have htake : takeOutcome n o late s = (State.raiseLaneFlag
      (s.modRoll n fun r => { r with entry := r.entry.takeOutcome o s.timestamp }) n (e.outcomeFlag o)).entryNotice n
        e.status late := rfl
  rw [htake]
  generalize (s.modRoll n fun r => { r with entry := r.entry.takeOutcome o s.timestamp }).raiseLaneFlag n (e.outcomeFlag o)
    = w at *
  have howner : w.owner n = s.owner n := by rw [hraised]; rfl
  have hroll : w.rolls.get n = { s.rolls.get n with entry := (s.rolls.get n).entry.takeOutcome o s.timestamp } := by
    rw [hraised]; simp
  have hother : ∀ m, m ≠ n → w.rolls.get m = s.rolls.get m := fun m hm => by rw [hraised]; simp [hm]
  have hbonds : w.bonds = s.bonds := by rw [hraised]; rfl
  have hbufs : w.bufs = s.bufs := by rw [hraised]; rfl
  rw [entryNotice_sends (by rw [howner]; exact h)]
  split
  next hsame =>
    refine ⟨by rw [hroll], by rw [hroll], hother, hbufs, hflag, fun b => ?_⟩
    rw [if_neg fun hboth => hboth.2 hsame, hbonds]
  next hchanged =>
    refine ⟨by rw [State.sendOwner, hroll], by rw [State.sendOwner, hroll], hother, hbufs, hflag, fun b => ?_⟩
    rw [State.sendOwner_get, howner, hbonds]
    exact if_congr ⟨fun hb => ⟨hb, hchanged⟩, And.left⟩ rfl rfl

/-! ## The symbol that completes the record -/

/-- A lane whose DATA symbols reach no bond through its write side: it has no owner, or its write side is CLOSED with no
mark before the symbol (R99, R131). -/
def State.WriteQuiet (s : State) (n : Lane) : Prop :=
  s.owner n = none ∨ ((s.bufs.get n).side = .closed ∧ (s.bufs.get n).markMemory = none)

theorem writeTake_quiet {n : Lane} {s : State} (u : Word) (late : Bool) (h : s.WriteQuiet n) :
    writeTake n (.data u) true late s
      = s.modBuf n fun bf => { bf with markMemory := markMemoryAfter (.data u) true s.timestamp } := by
  generalize hv : (s.modBuf n fun bf => { bf with markMemory := markMemoryAfter (.data u) true s.timestamp }) = v
  have hwrite : writeTake n (.data u) true late s = writeAct n (.data u) true (s.bufs.get n).markMemory late v := by
    rw [← hv]; rfl
  have howner : v.owner n = s.owner n := by rw [← hv]; rfl
  have hside : (v.bufs.get n).side = (s.bufs.get n).side := by rw [← hv]; simp
  rw [hwrite]
  rcases h with hnone | ⟨hclosed, hmemory⟩
  · have hnone' : v.owner n = none := howner.trans hnone
    have hgo : v.ownerGo n = false := by simp only [State.ownerGo, hnone']
    have hsweep : v.ownerSweep n = none := by simp only [State.ownerSweep, hnone', Option.bind_none]
    unfold writeAct
    split
    · split
      · simp only [State.toOwner, hnone']
      · rfl
    · split
      · simp [hgo]
      · rfl
    · simp [hsweep]
  · simp [writeAct, hside, hclosed, hmemory]

/-- The roll-call unit's step on the last word of a record (R41, R43). -/
theorem rollTake_completes {n : Lane} {u : Word} {s : State} {rec : OpenRecord} (late : Bool)
    (hrec : (s.rolls.get n).openRec = some rec) (hcomplete : (⟨rec.words ++ [u], rec.sum + u⟩ : OpenRecord).complete = true) :
    rollTake n (.data u) late s = takeOutcome n (judgeRecord ⟨rec.words ++ [u], rec.sum + u⟩) late
      (s.modRoll n fun r => { r with openRec := none, prevMark := false }) := by
  have hassemble : assemble (s.rolls.get n) (.data u) = (none, some (judgeRecord ⟨rec.words ++ [u], rec.sum + u⟩)) := by
    simp only [assemble, hrec, hcomplete, if_true]
  simp only [rollTake, hassemble]
  rfl

/-- The step of the symbol that completes a record, on a lane whose write side and owner it does not reach. -/
structure RecordTaken (n : Lane) (o : RecordOutcome) (s t : State) : Prop where
  outcome : OutcomeTaken n o (s.modRoll n fun r => { r with openRec := none, prevMark := false }) { t with bufs := s.bufs }
  otherBufs : ∀ m, m ≠ n → t.bufs.get m = s.bufs.get m
  otherLanes : State.OtherLanes n s t
  time : State.SameTime s t
  port : t.port = s.port

theorem execLaneSymbol_completes {n : Lane} {u : Word} {h : Handing} {s : State} {rec : OpenRecord}
    (hlocked : (s.lanes.get n).mode = .locked) (hpol : (s.lanes.get n).polarity = .normal)
    (hstrikes : (s.lanes.get n).strikes < 4)
    (hquiet : s.owner n = none ∨ (h.lateEntry = true ∧ (s.bufs.get n).side = .closed ∧ (s.bufs.get n).markMemory = none))
    (hrec : (s.rolls.get n).openRec = some rec)
    (hcomplete : (⟨rec.words ++ [u], rec.sum + u⟩ : OpenRecord).complete = true) :
    ∃ t, exec (.laneSymbol n (.data u) h) s = .next t
      ∧ RecordTaken n (judgeRecord ⟨rec.words ++ [u], rec.sum + u⟩) s t := by
  have hcls : classify (s.lanes.get n).polarity (.data u) = .data u := by rw [hpol]; rfl
  have hexec := execLaneSymbol_stays (h := h) hcls hlocked
    (Nat.lt_of_le_of_lt ((s.lanes.get n).strike_strikes_le rfl) hstrikes)
  have hseen := symbolSeen_receivers n (.data u) h.lateEntry s
  have hsnap := snapTake_snapOnly n (.data u) (rollTake n (.data u) h.lateEntry s)
  have hflags := ReceiversStay.of_noticeFrame (.of_snapOnly hsnap)
  have htaken := takeOutcome_taken (n := n) (late := h.lateEntry)
    (s := s.modRoll n fun r => { r with openRec := none, prevMark := false })
    (judgeRecord ⟨rec.words ++ [u], rec.sum + u⟩) (hquiet.imp id And.left)
  rw [← rollTake_completes h.lateEntry hrec hcomplete] at htaken
  change ReceiversStay s (snapTake n (.data u) (rollTake n (.data u) h.lateEntry s)) at hseen
  have hafter := hsnap.rest
  rw [symbolSeen] at hexec
  generalize rollTake n (.data u) h.lateEntry s = v at *
  generalize snapTake n (.data u) v = w at *
  have hbufs : w.bufs = s.bufs := by rw [hafter]; exact htaken.bufs
  have hbonds : w.bonds = v.bonds := by rw [hafter]
  have hrolls : w.rolls = v.rolls := by rw [hafter]
  have hwrite : (w.modLane n fun l => l.strike (.data u)).WriteQuiet n := by
    refine hquiet.imp (fun hnone => ?_) fun hclosed => ?_
    · have hsame : ∀ b, v.bonds.get b = s.bonds.get b := fun b =>
        (htaken.bonds b).trans (if_neg fun hb => absurd ((show s.owner n = some b from hb.1).symm.trans hnone) nofun)
      have howner : (w.modLane n fun l => l.strike (.data u)).owner n = s.owner n := by
        simp only [State.owner, State.modLane_bonds, hbonds, hsame]
      exact howner.trans hnone
    · rw [State.modLane_bufs, hbufs]
      exact hclosed.2
  rw [writeTake_quiet u h.lateReport hwrite] at hexec
  refine ⟨_, hexec, ⟨?_, ?_, ?_, rfl, fun f hf => hflags.keepsLaneFlags n f (htaken.flag f hf), ?_⟩, fun m hm => ?_,
    fun m hm => ?_, hseen.time.trans ⟨rfl, rfl, rfl, rfl, rfl⟩, hseen.port⟩
  · rw [← htaken.entry]
    exact congrArg (fun r : Eight RollCall => (r.get n).entry) hrolls
  · rw [← htaken.openRec]
    exact congrArg (fun r : Eight RollCall => (r.get n).openRec) hrolls
  · intro m hm
    rw [← htaken.otherRolls m hm]
    exact congrArg (fun r : Eight RollCall => r.get m) hrolls
  · intro b
    have hb := htaken.bonds b
    rw [← hbonds, ← hrolls] at hb
    exact hb
  · simp [hm, hbufs]
  · simp [hm, hseen.lanes]

/-- Settles O27: the entry is `Entry.takeOutcome` of the record's judgement, case by case. -/
theorem completeRecordMovesTheEntry : Obligations.CompleteRecordMovesTheEntry := by
  intro n u h s rec hlocked hpol hstrikes hquiet hrec hcomplete
  obtain ⟨t, hexec, htaken⟩ := execLaneSymbol_completes (h := h) hlocked hpol hstrikes hquiet hrec hcomplete
  have hout := htaken.outcome
  have hentry := hout.entry
  have hbonds := hout.bonds
  have hflag := hout.flag
  simp only [State.modRoll_get, if_true] at hentry hbonds hflag
  refine ⟨t, hexec, ?_, htaken.otherLanes, htaken.time, htaken.port, hbonds,
    fun m hm => ⟨(hout.otherRolls m hm).trans (by simp [hm]), htaken.otherBufs m hm⟩, ?_⟩
  · exact hout.openRec.trans (by simp)
  change (t.rolls.get n).entry = (s.rolls.get n).entry.takeOutcome _ s.timestamp at hentry
  dsimp only
  rw [hentry]
  generalize (s.rolls.get n).entry = e at *
  refine ⟨fun hsum => ?_, fun hsum hbad => ?_, fun hsum hlabel hindex => ?_⟩
  · rw [judgeRecord_checkFailure (rec := ⟨rec.words ++ [u], rec.sum + u⟩) hsum] at hflag ⊢
    exact ⟨rfl, hflag _ rfl⟩
  · rw [judgeRecord_malformed (rec := ⟨rec.words ++ [u], rec.sum + u⟩) hsum hbad] at hflag ⊢
    exact ⟨rfl, hflag _ rfl⟩
  · rw [judgeRecord_passes (rec := ⟨rec.words ++ [u], rec.sum + u⟩) hsum hlabel hindex] at hflag ⊢
    exact Entry.takeValid_cases e (recordOf (rec.words ++ [u])) s.timestamp fun f => hflag f

end Sys2Proof.Machine

/-! LANE_DISABLE: the buffer that stays cleared, and the entry, whatever the lane's notices bring (R29, R50, R121). -/

namespace Sys2Proof.Machine

/-! ## A cleared buffer stays cleared -/

/-- A cleared buffer: nothing in it, and its write side CLOSED (R121). -/
def Buffer.Cleared (bf : Buffer) : Prop := bf.entries = [] ∧ bf.side = .closed

theorem Buffer.clear_cleared (bf : Buffer) : bf.clear.Cleared := ⟨rfl, rfl⟩

theorem Buffer.Cleared.close {bf : Buffer} (h : bf.Cleared) : bf.close.Cleared := ⟨h.1, rfl⟩

/-- A move that leaves the buffer of lane `n` cleared where it is. -/
def KeepsCleared (n : Lane) (s t : State) : Prop := (s.bufs.get n).Cleared → (t.bufs.get n).Cleared

theorem KeepsCleared.of_bufs {n : Lane} {s t : State} (h : t.bufs = s.bufs) : KeepsCleared n s t := fun hs => by
  rw [h]
  exact hs

theorem KeepsCleared.of_get {n : Lane} {s t : State}
    (h : t.bufs.get n = (s.bufs.get n).clear ∨ t.bufs.get n = (s.bufs.get n).close ∨ t.bufs.get n = s.bufs.get n) :
    KeepsCleared n s t := fun hs => by
  rcases h with h | h | h <;> rw [h]
  · exact Buffer.clear_cleared _
  · exact hs.close
  · exact hs

theorem takeFault_keepsCleared (n : Lane) (b : BondId) (cause : FaultCause) (lane : Option Lane) (index : Option Index)
    (detail : Option Detail) (s : State) : KeepsCleared n s (takeFault b cause lane index detail s) := by
  refine .of_get ?_
  by_cases hlt : (s.bonds.get b).retrain < (s.bonds.get b).cfg.retrainLimit.toNat
  · obtain ⟨-, hbufs, -⟩ := takeFault_retrains cause lane index detail hlt
    rw [hbufs]
    split
    · exact .inl rfl
    · exact .inr (.inr rfl)
  · obtain ⟨-, hbufs, -, -⟩ := takeFault_halts cause lane index detail (Nat.not_lt.mp hlt)
    rw [hbufs]
    split
    · exact .inr (.inl rfl)
    · exact .inr (.inr rfl)

/-- An entry to ALIGNING opens no write side but a member's (R83). -/
theorem evaluateRollCall_keepsCleared {n : Lane} {b : BondId} {s : State} (hn : (s.bonds.get b).cfg.isMember n = false) :
    KeepsCleared n s (evaluateRollCall b s) := by
  unfold evaluateRollCall
  split
  · exact .of_bufs rfl
  · split
    · exact takeFault_keepsCleared n b _ _ _ _ s
    · rw [enterAligning_eq]
      refine .of_get (.inr (.inr ((Eight.get_mapIdx ..).trans (if_pos (Bond.indexOf_none fun i hi => ?_)))))
      exact Bool.eq_false_iff.mp hn (State.rollMap_isMember hi)

theorem startMend_keepsCleared (n : Lane) (b : BondId) (m : Lane) (cause : TriggerCause) (s : State) :
    KeepsCleared n s (startMend b m cause s) := by
  rw [startMend_eq]
  refine .of_get ?_
  rw [State.clearBufs_get]
  split
  · exact .inl rfl
  · exact .inr (.inr rfl)

theorem runningLaneFault_keepsCleared (n : Lane) (b : BondId) (m : Lane) (trigger : TriggerCause) (cause : FaultCause)
    (s : State) : KeepsCleared n s (runningLaneFault b m trigger cause s) := by
  unfold runningLaneFault
  split
  · exact startMend_keepsCleared n b m trigger s
  · exact takeFault_keepsCleared n b _ _ _ _ s

theorem returnToAnnounce_keepsCleared (n : Lane) (b : BondId) (joining : Lane) (s : State) :
    KeepsCleared n s (returnToAnnounce b joining s) := by
  refine .of_get ?_
  rw [returnToAnnounce, State.modBuf_get]
  split
  next h => rw [h]; exact .inr (.inl rfl)
  next => exact .inr (.inr rfl)

theorem mendingLockLost_keepsCleared (n : Lane) (b : BondId) (m : MendRec) (l : Lane) (cause : LossCause) (s : State) :
    KeepsCleared n s (mendingLockLost b m l cause s) := by
  unfold mendingLockLost
  split_ifs
  · exact takeFault_keepsCleared n b _ _ _ _ s
  · exact .of_bufs rfl
  · exact returnToAnnounce_keepsCleared n b l s
  · exact takeFault_keepsCleared n b _ _ _ _ s
  · exact .of_bufs rfl

/-- In CALLING every member's entry is CONFIRMED as the roll call is evaluated, so that a lane whose entry is not is no
member (R81, R82). -/
theorem bondTakesConfirmed_keepsCleared {n : Lane} {s : State} (b : BondId) (l : Lane)
    (hentry : (s.rolls.get n).entry.status ≠ .confirmed) : KeepsCleared n s (bondTakesConfirmed b l s) := by
  unfold bondTakesConfirmed
  dsimp only
  split
  · split
    next hall =>
      refine evaluateRollCall_keepsCleared (Bool.eq_false_iff.mpr fun hn => hentry ?_)
      simpa using List.all_eq_true.mp hall.2 n (BondConfig.mem_memberList.mpr hn)
    next => exact .of_bufs rfl
  · split
    · split
      · unfold mendCheck
        split
        · exact takeFault_keepsCleared n b _ _ _ _ s
        · exact .of_bufs rfl
      · exact .of_bufs rfl
    · exact .of_bufs rfl
  all_goals exact .of_bufs rfl

theorem bondTakesLockLost_keepsCleared (n : Lane) (b : BondId) (l : Lane) (cause : LossCause) (s : State) :
    KeepsCleared n s (bondTakesLockLost b l cause s) := by
  have hfault := fun c => takeFault_keepsCleared n b c (some l) ((s.bonds.get b).indexOf l) none s
  unfold bondTakesLockLost
  dsimp only
  split
  case h_4 | h_5 =>
    split
    · exact hfault _
    · exact .of_bufs rfl
  case h_6 =>
    split
    · cases cause
      · exact runningLaneFault_keepsCleared n b l _ _ s
      · exact runningLaneFault_keepsCleared n b l _ _ s
      · exact hfault _
      · exact hfault _
    · exact .of_bufs rfl
  case h_7 =>
    split
    · exact mendingLockLost_keepsCleared n b _ l cause s
    · exact .of_bufs rfl
  all_goals exact .of_bufs rfl

theorem bondTakesLockGained_keepsCleared (n : Lane) (b : BondId) (l : Lane) (s : State) :
    KeepsCleared n s (bondTakesLockGained b l s) := by
  unfold bondTakesLockGained
  dsimp only
  split <;> exact .of_bufs rfl

/-! ## What the lane's notices leave of its buffer and its entry -/

/-- A lane whose buffer is cleared and whose entry is not CONFIRMED. -/
structure LaneQuiet (n : Lane) (s : State) : Prop where
  cleared : (s.bufs.get n).Cleared
  entry : (s.rolls.get n).entry.status ≠ .confirmed

theorem LaneQuiet.of_moves {n : Lane} {b : BondId} {s t : State} (h : LaneQuiet n s) (hmoves : BondMoves b s t)
    (hbufs : KeepsCleared n s t) : LaneQuiet n t where
  cleared := hbufs h.cleared
  entry := by
    rcases hmoves.rolls n with heq | heq <;> rw [heq]
    · exact h.entry
    · exact nofun

/-- The notices of the roll-call unit and of a lane receiver. -/
def FromLane : Sender → Prop
  | .receiver _ | .rollCall => True
  | .writeSide _ | .readSide => False

theorem bondTakes_laneQuiet {n : Lane} {b : BondId} {x : Notice} {s : State} (hx : FromLane x.sender) (h : LaneQuiet n s) :
    LaneQuiet n (bondTakes b x s) := by
  refine h.of_moves (bondTakes_moves b x s) ?_
  cases x with
  | lockGained l => exact bondTakesLockGained_keepsCleared n b l s
  | lockLost l cause => exact bondTakesLockLost_keepsCleared n b l cause s
  | entryStatus l status =>
    cases status with
    | confirmed => exact bondTakesConfirmed_keepsCleared b l h.entry
    | empty | seen | stale => exact .of_bufs rfl
  | markSlip l | overflow l | skew lane units | released | sweepCompleted whole | underflow l | epochDrift =>
    exact absurd hx id

theorem takeNext_laneQuiet {n : Lane} {b : BondId} {x : Sender} {s : State} (hx : FromLane x) (h : LaneQuiet n s) :
    LaneQuiet n (takeNext b x s) := by
  unfold takeNext
  split
  next y hy =>
    have hsender : y.sender = x := by simpa using List.find?_some hy
    exact bondTakes_laneQuiet (by rw [hsender]; exact hx) ⟨h.cleared, h.entry⟩
  next => exact h

theorem tell_laneQuiet {n : Lane} {b : BondId} {x : Notice} {s : State} (late : Bool) (hx : FromLane x.sender)
    (h : LaneQuiet n s) : LaneQuiet n (s.tell b x late) := by
  cases late with
  | true => exact ⟨h.cleared, h.entry⟩
  | false =>
    refine bondTakes_laneQuiet hx ?_
    exact List.foldlRecOn (motive := LaneQuiet n) _ _ h fun t ht _ _ => takeNext_laneQuiet hx ht

theorem tellOwner_laneQuiet {n m : Lane} {x : Notice} {s : State} (late : Bool) (hx : FromLane x.sender)
    (h : LaneQuiet n s) : LaneQuiet n (s.tellOwner m x late) := by
  unfold State.tellOwner State.toOwner
  split
  · exact tell_laneQuiet late hx h
  · exact h

theorem Entry.lose_not_confirmed (e : Entry) : e.lose.status ≠ .confirmed := by
  unfold Entry.lose
  split <;> simp [*]

/-- A buffer that is cleared as its lane goes down stays so (R121). -/
theorem lossNotices_cleared {n : Lane} {s : State} (was : LaneMode) (cause : LossCause) (late lateEntry : Bool)
    (h : (s.bufs.get n).Cleared) : ((lossNotices n was cause late lateEntry s).bufs.get n).Cleared := by
  rw [lossNotices, (snapLaneDown_snapOnly n _).rest]
  split
  · have hlost : LaneQuiet n (s.modRoll n RollCall.lockLost) :=
      ⟨h, by simpa [RollCall.lockLost] using Entry.lose_not_confirmed _⟩
    have hstale : LaneQuiet n (rollLockLost n lateEntry s) := by
      unfold rollLockLost State.entryNotice
      split
      · exact hlost
      · exact tellOwner_laneQuiet lateEntry trivial hlost
    exact (tellOwner_laneQuiet late (x := .lockLost n cause) trivial hstale).cleared
  · exact h

end Sys2Proof.Machine

/-! LANE_DISABLE as a whole (R29, R30, R50, R121, R177). -/

namespace Sys2Proof.Machine

/-! ## The entry of a lane that is disabled -/

/-- A fault of a bond with a member that is not LOCKED clears no entry (R80, R95). -/
theorem takeFault_rolls {b : BondId} {s : State} (cause : FaultCause) (lane : Option Lane) (index : Option Index)
    (detail : Option Detail) (h : s.membersLocked b = false) (n : Lane) :
    (takeFault b cause lane index detail s).rolls.get n = s.rolls.get n := by
  by_cases hlt : (s.bonds.get b).retrain < (s.bonds.get b).cfg.retrainLimit.toNat
  · obtain ⟨-, -, hrolls⟩ := takeFault_retrains cause lane index detail hlt
    rw [hrolls, h]
    exact if_neg fun hboth => absurd hboth.1 nofun
  · obtain ⟨-, -, hrolls, -⟩ := takeFault_halts cause lane index detail (Nat.not_lt.mp hlt)
    rw [hrolls]

/-- No entry is cleared by the notice that a lane, which is not LOCKED now, has been disabled (R91, R138). -/
theorem bondTakes_disabled_rolls {b : BondId} {n : Lane} {s : State} (h : (s.lanes.get n).mode ≠ .locked) (m : Lane) :
    (bondTakes b (.lockLost n .disabled) s).rolls.get m = s.rolls.get m := by
  have hfault := fun (hn : (s.bonds.get b).cfg.isMember n = true) cause detail =>
    takeFault_rolls cause (some n) ((s.bonds.get b).indexOf n) detail (State.not_membersLocked hn h) m
  change (bondTakesLockLost b n .disabled s).rolls.get m = _
  unfold bondTakesLockLost
  dsimp only
  split
  case h_4 | h_5 | h_6 =>
    split
    next hn => exact hfault hn _ _
    next => rfl
  case h_7 =>
    split
    · unfold mendingLockLost
      rw [if_neg nofun]
      split_ifs with hjoining hmember
      · rfl
      · exact hfault hmember.2 _ _
      · rfl
    · rfl
  all_goals rfl

/-- The roll-call unit takes a loss whose STALE notice has no effect on the lane's owner, if it has one. -/
theorem rollLockLost_rolls {n : Lane} {s : State} {lateEntry : Bool}
    (hflight : lateEntry = true ∨ ∀ b, s.inFlightFrom b .rollCall = false) :
    ∃ xs, (∀ m, xs.any (fun x => x.sender == .receiver m) = false)
      ∧ rollLockLost n lateEntry s = (s.modRoll n RollCall.lockLost).sendOwner n xs := by
  cases howner : s.owner n with
  | some b => exact ⟨_, fun m => Entry.lateStale_sender _ n m lateEntry,
    rollLockLost_noEffect howner (hflight.imp id fun h => h b)⟩
  | none =>
    have howner' : (s.modRoll n RollCall.lockLost).owner n = none := howner
    refine ⟨[], fun _ => rfl, (State.sendOwner_nil _ n).symm ▸ ?_⟩
    unfold rollLockLost State.entryNotice
    split
    · rfl
    · simp only [State.tellOwner, State.toOwner, howner']

/-- The entry of a lane that is disabled goes STALE, and no more (R50), where nothing earlier on its way moves the bond. -/
theorem lossNotices_disabled_entry {n : Lane} {s : State} {late lateEntry : Bool} (hmode : (s.lanes.get n).mode ≠ .locked)
    (hreceiver : late = true ∨ ∀ b, s.inFlightFrom b (.receiver n) = false)
    (hflight : lateEntry = true ∨ ∀ b, s.inFlightFrom b .rollCall = false) :
    ((lossNotices n .locked .disabled late lateEntry s).rolls.get n).entry = (s.rolls.get n).entry.lose := by
  obtain ⟨xs, hsenders, hroll⟩ := rollLockLost_rolls (s := s) (n := n) hflight
  have hlost : ((s.modRoll n RollCall.lockLost).sendOwner n xs).rolls.get n = (s.rolls.get n).lockLost :=
    (State.modRoll_get s n n _).trans (if_pos rfl)
  have hmode' : (((s.modRoll n RollCall.lockLost).sendOwner n xs).lanes.get n).mode ≠ .locked := hmode
  have hnone : late = true ∨ ∀ b, ((s.modRoll n RollCall.lockLost).sendOwner n xs).inFlightFrom b (.receiver n) = false :=
    hreceiver.imp id fun h b => by
      rw [State.inFlightFrom, State.sendOwner_get]
      split
      · rw [List.any_append]
        exact Bool.or_eq_false_iff.mpr ⟨h b, hsenders n⟩
      · exact h b
  rw [lossNotices, if_pos rfl, (snapLaneDown_snapOnly n _).rest]
  change ((noticeLockLost n .disabled late lateEntry s).rolls.get n).entry = _
  rw [noticeLockLost, hroll]
  generalize (s.modRoll n RollCall.lockLost).sendOwner n xs = u at *
  have hrolls : (u.tellOwner n (.lockLost n .disabled) late).rolls.get n = u.rolls.get n := by
    cases late with
    | true => rw [State.tellOwner_late]; rfl
    | false =>
      unfold State.tellOwner State.toOwner
      split
      next b _ =>
        dsimp only
        rw [tell_taken (x := .lockLost n .disabled) (hnone.resolve_left nofun b), bondTakes_disabled_rolls hmode']
      next => rfl
  rw [hrolls, hlost]
  rfl

/-! ## The lane as it goes to OFF -/

/-- The lane's word and its state, before its notices (R29, R121). -/
def State.disabled (s : State) (n : Lane) (v : Word) : State :=
  bufLaneOff n (raiseLockLost n (s.lanes.get n).mode (s.modLane n fun l => (l.configure v).toOff))

theorem LaneRx.configure_mode (l : LaneRx) (v : Word) : (l.configure v).mode = l.mode := rfl

theorem writeLaneConfig_disable {n : Lane} {v : Word} {s : State} (late lateEntry : Bool) (hv : v.getLsbD 0 = false) :
    writeLaneConfig n v late lateEntry s = if (s.lanes.get n).mode = .off then s.modLane n fun l => l.configure v
      else lossNotices n (s.lanes.get n).mode .disabled late lateEntry (s.disabled n v) := by
  have hmode : ((s.modLane n fun l => l.configure v).lanes.get n).mode = (s.lanes.get n).mode := by simp [LaneRx.configure_mode]
  have htwice : (s.modLane n fun l => l.configure v).modLane n LaneRx.toOff = s.modLane n fun l => (l.configure v).toOff := by
    simp [State.modLane]
  have hdisable : disableLane n late lateEntry (s.modLane n fun l => l.configure v)
      = lossNotices n (s.lanes.get n).mode .disabled late lateEntry (s.disabled n v) := by
    simp only [disableLane, hmode, htwice, State.disabled]
  rw [← hdisable]
  simp only [writeLaneConfig, wordBit, hv, Bool.false_eq_true, if_false]

/-- What a lane's way to OFF leaves, before its notices. -/
structure LaneDisabled (n : Lane) (v : Word) (s t : State) : Prop where
  lanes : t.lanes = s.lanes.set n ((s.lanes.get n).configure v).toOff
  cleared : (t.bufs.get n).Cleared
  rolls : t.rolls = s.rolls
  snap : t.snap = s.snap
  port : t.port = s.port
  time : State.SameTime s t
  inFlight : ∀ b, (t.bonds.get b).inFlight = (s.bonds.get b).inFlight
  owner : t.owner n = s.owner n
  pending : (s.lanes.get n).mode ≠ .locked → t.irq.lanePending = s.irq.lanePending
  flag : (s.lanes.get n).mode = .locked → t.laneFlag n .lockLost = true

theorem Bond.withdraw_claims (bd : Bond) (n m : Lane) : (bd.withdraw n).claims m = bd.claims m := by
  unfold Bond.withdraw
  split <;> rfl

theorem withdraw_owner (n m : Lane) (s : State) : (s.withdraw n).owner m = s.owner m := by
  have hclaims : ∀ b, ((s.withdraw n).bonds.get b).claims m = (s.bonds.get b).claims m := fun b => by
    unfold State.withdraw
    split
    · rw [State.modBond_get]
      split
      next hb => rw [hb, Bond.withdraw_claims]
      next => rfl
    · rfl
  simp only [State.owner, hclaims]

theorem withdraw_frame (n : Lane) (s : State) : s.withdraw n = { s with bonds := (s.withdraw n).bonds } := by
  unfold State.withdraw
  split <;> rfl

theorem State.disabled_leaves (s : State) (n : Lane) (v : Word) : LaneDisabled n v s (s.disabled n v) := by
  obtain ⟨w, hraised⟩ := raiseLockLost_frame n (s.lanes.get n).mode (s.modLane n fun l => (l.configure v).toOff)
  have hflags := raiseLockLost_notLocked (n := n) (was := (s.lanes.get n).mode)
    (s := s.modLane n fun l => (l.configure v).toOff)
  have hflag : (s.lanes.get n).mode = .locked →
      (raiseLockLost n (s.lanes.get n).mode (s.modLane n fun l => (l.configure v).toOff)).laneFlag n .lockLost = true :=
    fun h => by
      rw [h, raiseLockLost_locked]
      exact (laneFlag_raiseLane _ n n .lockLost .lockLost).trans (by simp)
  have hflight := withdraw_inFlight n
    ((raiseLockLost n (s.lanes.get n).mode (s.modLane n fun l => (l.configure v).toOff)).modBuf n Buffer.clear)
  have howner := withdraw_owner n n
    ((raiseLockLost n (s.lanes.get n).mode (s.modLane n fun l => (l.configure v).toOff)).modBuf n Buffer.clear)
  rw [State.disabled, bufLaneOff, withdraw_frame]
  generalize hu : raiseLockLost n (s.lanes.get n).mode (s.modLane n fun l => (l.configure v).toOff) = u at *
  exact {
    lanes := by rw [hraised]; rfl
    cleared := by simpa using Buffer.clear_cleared (u.bufs.get n)
    rolls := by rw [hraised]; rfl
    snap := by rw [hraised]; rfl
    port := by rw [hraised]; rfl
    time := by rw [hraised]; exact ⟨rfl, rfl, rfl, rfl, rfl⟩
    inFlight := fun b => by rw [hflight, hraised]; rfl
    owner := by
      refine Eq.trans ?_ (howner.trans ?_)
      · rfl
      · rw [hraised]; rfl
    pending := fun h => by rw [hflags h]; rfl
    flag := hflag }

/-! ## The obligation -/

/-- A lane that goes to OFF with a word of its own (R17, R24, R26, R29). -/
theorem LaneRx.configure_toOff (l : LaneRx) (v : Word) (hv : v.getLsbD 0 = false) : (l.configure v).toOff =
    { enable := false
      cfgPolarity := if v.getLsbD 1 then .inverted else .normal
      autoPolarity := v.getLsbD 2
      acqTimeout := if v.extractLsb' 8 8 = 0 then 1 else v.extractLsb' 8 8
      mode := .off
      polarity := l.polarity
      lockRun := 0, invRun := 0, strikes := 0, relief := 0
      lastLoss := if l.mode = .locked then some .disabled else l.lastLoss
      invalidSymbols := l.invalidSymbols
      lockLosses := if l.mode = .locked then satInc l.lockLosses else l.lockLosses
      acqFailures := l.acqFailures
      acqTimer := .stopped } := by
  rw [LaneRx.toOff, LaneRx.countLoss_fields]
  rw [← hv]
  rfl

/-- What is on its way to the bonds after a loss whose two notices stay there. -/
theorem lossNotices_late_inFlight (n : Lane) (cause : LossCause) (s : State) (b : BondId) :
    ((lossNotices n .locked cause true true s).bonds.get b).inFlight = if s.owner n = some b then
      (s.bonds.get b).inFlight ++ (s.rolls.get n).entry.staleNotice n ++ [.lockLost n cause] else (s.bonds.get b).inFlight := by
  rw [(lossNotices_late n cause s).2 b]
  split <;> rfl

/-- Settles O17: the lane as `State.disabled_leaves` gives it, and then its notices. -/
theorem disableTakesALaneToOff : Obligations.DisableTakesALaneToOff := by
  intro n v late lateEntry s x htakes hv
  have hexec : exec (.laneDisable n v late lateEntry) s = .next (writeLaneConfig n v late lateEntry (s.withTxn x)) :=
    congrArg Host.Outcome.next (writeWord_of_takes _ htakes)
  rw [writeLaneConfig_disable late lateEntry hv] at hexec
  refine ⟨fun hoff => ?_, fun hnot => ?_⟩
  · rw [if_pos (show ((s.withTxn x).lanes.get n).mode = .off from hoff)] at hexec
    rw [hexec, ← hv]
    rfl
  · rw [if_neg (show ((s.withTxn x).lanes.get n).mode ≠ .off from hnot)] at hexec
    have hdown := (s.withTxn x).disabled_leaves n v
    change exec _ _ = .next (lossNotices n (s.lanes.get n).mode .disabled late lateEntry ((s.withTxn x).disabled n v)) at hexec
    generalize (s.withTxn x).disabled n v = u at *
    have hframe := lossNotices_frame n (s.lanes.get n).mode .disabled late lateEntry u
    have hcleared := lossNotices_cleared (s.lanes.get n).mode .disabled late lateEntry hdown.cleared
    have hsnap : u.snap = s.snap := hdown.snap
    refine ⟨_, hexec, ?_, fun m hm => ?_, ?_, hframe.port.trans hdown.port, hcleared.1, hcleared.2, fun hbusy hn => ?_,
      fun hfree => ?_, fun hunlocked => ?_, fun hlocked => ?_⟩
    · rw [hframe.lanes, hdown.lanes, Eight.get_set, if_pos rfl]
      exact LaneRx.configure_toOff _ v hv
    · rw [hframe.lanes, hdown.lanes, Eight.get_set, if_neg hm]
      rfl
    · exact State.SameTime.trans ⟨hdown.time.timestamp, hdown.time.refmon, hdown.time.slotDue, hdown.time.lineStarted,
        hdown.time.pending⟩ hframe.time
    · have hbusy' := (Snapshot.busy_iff s.snap).mpr hbusy
      rw [← hsnap] at hbusy' hn ⊢
      exact lossNotices_aborts _ _ _ _ hbusy' hn
    · refine (lossNotices_snap_of_not_busy _ _ _ _ fun hbusy hn => ?_).trans hsnap
      rw [hsnap] at hbusy hn
      rcases hfree with ⟨harmed, hfilling⟩ | hlane
      · exact ((Snapshot.busy_iff s.snap).mp hbusy).elim harmed hfilling
      · exact hlane hn
    · refine ⟨?_, hframe.lanePending.trans (hdown.pending hunlocked)⟩
      rw [lossNotices_notLocked _ _ _ _ hunlocked, (snapLaneDown_snapOnly n _).rest]
      exact hdown.rolls
    · have hrolls : u.rolls = s.rolls := hdown.rolls
      have hoff : (u.lanes.get n).mode ≠ .locked := by
        rw [hdown.lanes, Eight.get_set, if_pos rfl, LaneRx.configure_toOff _ v hv]
        exact nofun
      have hflights : ∀ b y, u.inFlightFrom b y = s.inFlightFrom b y := fun b y => by
        rw [State.inFlightFrom, hdown.inFlight]; rfl
      have hflag := hdown.flag hlocked
      rw [hlocked] at hframe ⊢
      obtain ⟨hlistening, hopen⟩ := lossNotices_quiet n .disabled late lateEntry u
      refine ⟨?_, hlistening, hopen, fun hreceiver hrollCall => ?_, fun hlate hlateEntry b => ?_⟩
      · unfold State.laneFlag at *
        rw [hframe.lanePending]
        exact hflag
      · rw [lossNotices_disabled_entry hoff (hreceiver.imp id fun h b => (hflights b _).trans (h b))
          (hrollCall.imp id fun h b => (hflights b _).trans (h b)), hrolls]
        refine ⟨fun h => Entry.lose_changed h, fun h => Entry.lose_same fun hboth => ?_⟩
        rcases h with h | h <;> simp [h] at hboth
      · rw [hlate, hlateEntry, lossNotices_late_inFlight, hdown.owner, hdown.inFlight, hrolls]
        rfl

end Sys2Proof.Machine
